-- ==== Sys2Proof/Word.lean ====
section
/-! DEFINITION. The widths of 00_scope.md R7, R10 and 30_encoding.md R84: bytes, 32-bit register values,
16-bit host indices and 64-bit event words. All values are unsigned (R10). -/

namespace Sys2Proof

/-- One byte: a received byte, an error kind, a register index on the bus (30_encoding.md R85). -/
abbrev Byte := BitVec 8

/-- A register value or a handler identifier: 32 bits (00_scope.md R7, 10_state.md R24). -/
abbrev Word := BitVec 32

/-- The `IDX` field: the index width of the setup and application ports (20_memory.md R60). -/
abbrev Index := BitVec 16

/-- One inbound event (30_encoding.md R84). -/
abbrev EventWord := BitVec 64

end Sys2Proof
end

