-- ==== Sys2Proof/Syntax.lean ====
section
/-! DEFINITION. The inbound events (30_encoding.md R86), one constructor for each row of spec/opcode_table.json,
and the abstract assembler lines of R91 and R92 with their operands as the numbers a programmer writes. -/

namespace Sys2Proof

/-- One inbound event with its operands (30_encoding.md R85, R86). -/
inductive Instr where
  /-- `ADDR.W`: address match, direction Write (R141). -/
  | addrW
  /-- `ADDR.R`: address match, direction Read (R142). -/
  | addrR
  /-- `RXC b`: one requested byte has arrived (R143). -/
  | rxc (b : Byte)
  /-- `LISTEN`: listening completed (R150). -/
  | listen
  /-- `ERR k`: the transaction aborted with error kind k (R147). -/
  | err (k : Byte)
  /-- `SETRO i, v`: make register i read-only with value v (R180). -/
  | setro (i : Index) (v : Word)
  /-- `SETCB i, h`: attach handler h to register i (R181). -/
  | setcb (i : Index) (h : Word)
  /-- `ENABLE`: end of initialisation (R183). -/
  | enable
  /-- `AREAD i`: application read of register i (R185). -/
  | aread (i : Index)
  deriving DecidableEq, Repr

/-- One assembler line: an event in the syntax of R91 or a pseudo-instruction of R92. The operands are plain
numbers; `Asm.wf` checks their ranges. -/
inductive Asm where
  | addrW
  | addrR
  | rxc (b : Nat)
  | listen
  | errNack
  | errOther
  | err (k : Nat)
  | setro (i v : Nat)
  | setcb (i h : Nat)
  | enable
  | aread (i : Nat)
  /-- `WRITE32 i, v` -/
  | write32 (i v : Nat)
  /-- `WRITESHORT i, b0[, b1[, b2]]` -/
  | writeShort (i : Nat) (bytes : List Nat)
  /-- `SETPTR i` -/
  | setptr (i : Nat)
  /-- `READ32` -/
  | read32
  /-- `READ32 i` -/
  | read32At (i : Nat)
  deriving DecidableEq, Repr

end Sys2Proof
end

