-- ==== Sys2Proof/WellFormed.lean ====
section
/-! DEFINITION. The checks on written operands (30_encoding.md R91, R92).

An `Instr` needs no check: each operand has exactly the width of its field (R84, R85), so every term of `Instr`
has one event word and every legal event word is one term (Decode.lean). The checks are those on assembler lines,
whose operands are plain numbers. -/

namespace Sys2Proof

/-- `0 <= b <= 255` (R91). -/
abbrev fitsByte (n : Nat) : Bool := decide (n < 2 ^ 8)

/-- `0 <= i <= 65535` (R91). -/
abbrev fitsIndex (n : Nat) : Bool := decide (n < 2 ^ 16)

/-- `v 32 bits` (R91). -/
abbrev fitsWord (n : Nat) : Bool := decide (n < 2 ^ 32)

/-- The operands of an assembler line are in the ranges of R91. The index of a pseudo-instruction of R92 travels in
one `RXC` byte; `WRITESHORT` takes one to three bytes. -/
def Asm.wf : Asm → Bool
  | .addrW | .addrR | .listen | .errNack | .errOther | .enable | .read32 => true
  | .rxc b => fitsByte b
  | .err k => fitsByte k
  | .setro i v => fitsIndex i && fitsWord v
  | .setcb i h => fitsIndex i && fitsWord h
  | .aread i => fitsIndex i
  | .write32 i v => fitsByte i && fitsWord v
  | .writeShort i bytes =>
    fitsByte i && decide (1 ≤ bytes.length) && decide (bytes.length ≤ 3) && bytes.all fitsByte
  | .setptr i => fitsByte i
  | .read32At i => fitsByte i

end Sys2Proof
end

