-- ==== Sys2Proof/Decode.lean ====
section
/-! DEFINITION. The event word (30_encoding.md R84 to R90): its fields, the decoder of R87 (total on every 64-bit
word, naming which case of R89 makes a word reserved) and the encoder written from the map of R86. -/

namespace Sys2Proof

/-- `OP = W[63:56]` (R84). -/
def fieldOp (w : EventWord) : Byte := w.extractLsb' 56 8

/-- `B = W[55:48]` (R84). -/
def fieldB (w : EventWord) : Byte := w.extractLsb' 48 8

/-- `IDX = W[47:32]` (R84). -/
def fieldIdx (w : EventWord) : Index := w.extractLsb' 32 16

/-- `V = W[31:0]` (R84). -/
def fieldV (w : EventWord) : Word := w.extractLsb' 0 32

/-- The word with the four fields at their places (R84). -/
def pack (op b : Byte) (idx : Index) (v : Word) : EventWord :=
  op.setWidth 64 <<< 56 ||| b.setWidth 64 <<< 48 ||| idx.setWidth 64 <<< 32 ||| v.setWidth 64

/-- The three kinds of reserved word of R89. -/
inductive Reserved where
  /-- an `OP` value that no event has -/
  | unassignedOp
  /-- `ADDR` with a direction other than Write (0x00) and Read (0x01) -/
  | badDirection
  /-- a field the event does not use is not zero -/
  | unusedField
  deriving DecidableEq, Repr

/-- What the decoder answers: an event, or the reason the word is reserved. -/
inductive Decoded where
  | event (i : Instr)
  | reserved (r : Reserved)
  deriving DecidableEq, Repr

/-- An event whose unused fields are zero, else the word is reserved (R84, R89). -/
def whenZero (unusedAreZero : Bool) (i : Instr) : Decoded :=
  if unusedAreZero then .event i else .reserved .unusedField

/-- `decode(W)` of R87. -/
def decode (w : EventWord) : Decoded :=
  let b := fieldB w
  let idx := fieldIdx w
  let v := fieldV w
  if fieldOp w = 0x01 then
    if idx = 0 ∧ v = 0 then
      if b = 0x00 then .event .addrW
      else if b = 0x01 then .event .addrR
      else .reserved .badDirection
    else .reserved .unusedField
  else if fieldOp w = 0x02 then whenZero (decide (idx = 0 ∧ v = 0)) (.rxc b)
  else if fieldOp w = 0x03 then whenZero (decide (b = 0 ∧ idx = 0 ∧ v = 0)) .listen
  else if fieldOp w = 0x04 then whenZero (decide (idx = 0 ∧ v = 0)) (.err b)
  else if fieldOp w = 0x10 then whenZero (decide (b = 0)) (.setro idx v)
  else if fieldOp w = 0x11 then whenZero (decide (b = 0)) (.setcb idx v)
  else if fieldOp w = 0x12 then whenZero (decide (b = 0 ∧ idx = 0 ∧ v = 0)) .enable
  else if fieldOp w = 0x20 then whenZero (decide (b = 0 ∧ v = 0)) (.aread idx)
  else .reserved .unassignedOp

/-- The event word of an event (the map of R86). -/
def encode : Instr → EventWord
  | .addrW => pack 0x01 0x00 0 0
  | .addrR => pack 0x01 0x01 0 0
  | .rxc b => pack 0x02 b 0 0
  | .listen => pack 0x03 0 0 0
  | .err k => pack 0x04 k 0 0
  | .setro i v => pack 0x10 0 i v
  | .setcb i h => pack 0x11 0 i h
  | .enable => pack 0x12 0 0 0
  | .aread i => pack 0x20 0 i 0

/-- The `match` column of R86. -/
def rowMatch : Instr → EventWord
  | .addrW => 0x0100000000000000
  | .addrR => 0x0101000000000000
  | .rxc _ => 0x0200000000000000
  | .listen => 0x0300000000000000
  | .err _ => 0x0400000000000000
  | .setro _ _ => 0x1000000000000000
  | .setcb _ _ => 0x1100000000000000
  | .enable => 0x1200000000000000
  | .aread _ => 0x2000000000000000

/-- The `mask` column of R86. -/
def rowMask : Instr → EventWord
  | .addrW => 0xFFFFFFFFFFFFFFFF
  | .addrR => 0xFFFFFFFFFFFFFFFF
  | .rxc _ => 0xFF00FFFFFFFFFFFF
  | .listen => 0xFFFFFFFFFFFFFFFF
  | .err _ => 0xFF00FFFFFFFFFFFF
  | .setro _ _ => 0xFFFF000000000000
  | .setcb _ _ => 0xFFFF000000000000
  | .enable => 0xFFFFFFFFFFFFFFFF
  | .aread _ => 0xFFFF0000FFFFFFFF

/-- The 64-bit word of a table word: the bits above `nbits` are zero (R84; the table and R10 both number bit 0 as
the least significant). -/
def tableWord (nbits w : Nat) : EventWord := BitVec.ofNat 64 (w % 2 ^ nbits)

/-- The event the decoder reads from a table word; none where the word is reserved. -/
def decodeTableWord (nbits w : Nat) : Option Instr :=
  match decode (tableWord nbits w) with
  | .event i => some i
  | .reserved _ => none

end Sys2Proof
end

