-- ==== Sys2Proof/Config.lean ====
section
/-! DEFINITION. What is fixed for one machine (the parameters of 00_scope.md R6 and R9, the read sentinel of R8)
and the free values the spec leaves open (20_memory.md R66, 40_register_table.md R118). -/

namespace Sys2Proof

/-- The parameters a model takes, with the spec's defaults (00_scope.md R6, R9; 92_eei_decisions.md "Parameters
left OPEN"). State carries them in a field that no step writes (DESIGN CHOICE, log 4). -/
structure Params where
  /-- `REG_COUNT`, R6: the number N of registers. -/
  regCount : Nat := 32
  /-- `TORN_READS`, R66: an application read may tear per byte lane. -/
  tornReads : Bool := true
  /-- `CALLBACK_MAY_HANG`, R118: a handler may never return. -/
  callbackMayHang : Bool := false
  deriving DecidableEq, Repr

/-- The bound of R6: `1 <= REG_COUNT <= 256`. -/
abbrev Params.legal (p : Params) : Prop := 1 ≤ p.regCount ∧ p.regCount ≤ 256

namespace Config

/-- `READ_SENTINEL`, 00_scope.md R8. -/
def readSentinel : Word := 0xFFFFFFFF

/-- FREE VALUE (log 9): for the n-th draw, which byte lanes a torn application read takes from after the
concurrent step; bit k is lane k (20_memory.md R66). Nothing constrains it. -/
opaque freeLanes : Nat → BitVec 4

/-- FREE VALUE (log 9): for the n-th draw, whether the invoked handler never returns (40_register_table.md R118).
Read only where `CALLBACK_MAY_HANG` is true. Nothing constrains it. -/
opaque freeHang : Nat → Bool

end Config

end Sys2Proof
end

