-- ==== Sys2Proof/Machine/State.lean ====
section
/-! DEFINITION. Architectural state (10_state.md R20 to R42), the output records (R40), the host's deliveries
(60_exceptions.md R210, 20_memory.md R66), the stops, and reset (70_reset_and_hazards.md R230). -/

namespace Sys2Proof.Machine

/-- The transaction phase (R30). The reserved encoding 0b11 is omitted from the type, as R30 allows (log 10). -/
inductive Phase where
  | idle
  | address
  | data
  deriving DecidableEq, Repr

/-- The two modes (R37, R209). -/
inductive Mode where
  | config
  | run
  deriving DecidableEq, Repr

/-- Where a reception request puts its byte (R40): `TARGET`, or a lane of `pending`. -/
inductive RxDest where
  | target
  | lane0
  | lane1
  | lane2
  | lane3
  deriving DecidableEq, Repr

/-- The frame tags (00_scope.md glossary, R40). -/
inductive Frame where
  | first
  | next
  | last
  | firstAndLast
  deriving DecidableEq, Repr

/-- An output record (R40). The length of a `REQ_RX` is always 1, that of a `REQ_TX` always 4, and the frame of a
`REQ_TX` always `FIRST_AND_LAST` (`Output.length`, `Output.frame`). -/
inductive Output where
  /-- `REQ_RX(dest, 1, frame)` -/
  | reqRx (dest : RxDest) (frame : Frame)
  /-- `REQ_TX(d0, d1, d2, d3, 4, FIRST_AND_LAST)`, bytes in transmission order -/
  | reqTx (d0 d1 d2 d3 : Byte)
  /-- `REQ_LISTEN` -/
  | reqListen
  /-- `CALLBACK(i, h)`: the handler h of register i has run to completion -/
  | callback (i : Nat) (h : Word)
  /-- `APP_DATA(v)`: the reply to an application read -/
  | appData (v : Word)
  deriving DecidableEq, Repr

/-- The causes of a refusal (60_exceptions.md R201). -/
inductive RefuseCause where
  /-- `RF_RESERVED` -/
  | reserved
  /-- `RF_RX_UNARMED` -/
  | rxUnarmed
  /-- `RF_BUS_IN_CONFIG` -/
  | busInConfig
  /-- `RF_SETUP_IN_RUN` -/
  | setupInRun
  deriving DecidableEq, Repr

/-- One event the host delivers: its word, whether the host declares it (an `AREAD`) concurrent with the step
that follows it (20_memory.md R66; DESIGN CHOICE, log 6), and the registers that the handler this event invokes, if it
invokes one, reads through `AREAD` while it runs, in order (40_register_table.md R116; DESIGN CHOICE, log 13). -/
structure Delivery where
  word : EventWord
  concurrent : Bool := false
  handlerReads : List Index := []
  deriving DecidableEq, Repr

/-- How a step can stop. -/
inductive Fault where
  /-- Raised by `step` where `refused` is 1: "no step (the instance is stuck)" (60_exceptions.md R202). Safe:
  the spec gives no further step. -/
  | instanceStuck
  /-- Raised by InvokeCallback where `CALLBACK_MAY_HANG` is true and the free draw says the handler never returns
  (40_register_table.md R118: "stuck", "not a completed execution"). Safe: the machine stops. -/
  | handlerHung
  deriving DecidableEq, Repr

/-- What the model refuses. The spec's own refusals (R202) are NOT these: they are next states with `refused` set
(log 3). -/
inductive Refusal where
  /-- Raised by `exec` for an event with no meaning yet; no arm does. Safe: the machine stops. -/
  | notModelled (mnemonic : String)
  deriving DecidableEq, Repr

/-- The state of one I2CREG instance (R20), its parameters, and the model's own fields that hold a step's inputs and
outputs. `reg`, `ro` and `cb` have `params.regCount` entries each (`Memory.wf`). -/
structure State where
  /-- The parameters of R6 and R9: constant, no step writes them (log 4). -/
  params : Params
  /-- `reg[i]`: the register table values (R21). -/
  reg : List Word
  /-- `ro[i]`: the read-only flags (R22). -/
  ro : List Bool
  /-- `cb[i]`: the callback table, 0 = no handler (R24). -/
  cb : List Word
  /-- `phase` (R30, R31). -/
  phase : Phase
  /-- `target`: the index byte last received (R32). -/
  target : Byte
  /-- `count`: bytes received into `pending`, 0..4 (R33). -/
  count : Fin 5
  /-- `pending`: the write accumulator (R34). -/
  pending : Word
  /-- `rxArmed`: a reception request is outstanding (R36). -/
  rxArmed : Bool
  /-- `mode` (R37). -/
  mode : Mode
  /-- `refused`: the sticky refusal mark (R38). -/
  refused : Bool
  /-- `refuseCode`: the first refusal's code (R38, R201). -/
  refuseCode : BitVec 8
  /-- `refuseWord`: the event word of the first refusal (R38). -/
  refuseWord : EventWord
  /-- Model's own: deliveries not processed yet, oldest first (log 1). -/
  inbox : List Delivery
  /-- Model's own: the declaration of R66 on the event being processed (log 6). -/
  concurrent : Bool
  /-- Model's own: the registers the handler of the event being processed reads, in order (R116, log 13). -/
  handlerReads : List Index
  /-- Model's own: indices of torn reads waiting for the concurrent step's end, oldest first (R66, log 6). -/
  torn : List Index
  /-- Model's own: the concatenated output lists, oldest first (R40, R217; log 5). -/
  outputs : List Output
  /-- Model's own: which free value comes next (log 9). -/
  draws : Nat
  deriving DecidableEq, Repr

/-- The state after reset (R42, R230) of a machine with parameters `p`. -/
def State.resetWith (p : Params) : State :=
  { params := p
    reg := List.replicate p.regCount 0x00000000
    ro := List.replicate p.regCount false
    cb := List.replicate p.regCount 0
    phase := .idle
    target := 0x00
    count := 0
    pending := 0x00000000
    rxArmed := false
    mode := .config
    refused := false
    refuseCode := 0x00
    refuseWord := 0x0000000000000000
    inbox := []
    concurrent := false
    handlerReads := []
    torn := []
    outputs := []
    draws := 0 }

/-- The state after reset, with the spec's parameter values (R6, R9, R42, R230). -/
def State.reset : State := State.resetWith {}

end Sys2Proof.Machine
end

