-- ==== Sys2Proof/Machine/Fields.lean ====
section
/-! DEFINITION. The field writes `S.f <- v` of 00_scope.md R11, one function per field; every write of a meaning
goes through them. -/

namespace Sys2Proof.Machine

/-- `reg[i] <- v`. -/
def State.setReg (s : State) (i : Nat) (v : Word) : State := { s with reg := s.reg.set i v }

/-- `ro[i] <- 1`. Nothing but reset clears a flag (R22). -/
def State.setRo (s : State) (i : Nat) : State := { s with ro := s.ro.set i true }

/-- `cb[i] <- h`. -/
def State.setCb (s : State) (i : Nat) (h : Word) : State := { s with cb := s.cb.set i h }

/-- `phase <- p`, the sequencing write of R11. -/
def State.setPhase (s : State) (p : Phase) : State := { s with phase := p }

/-- `target <- b`. -/
def State.setTarget (s : State) (b : Byte) : State := { s with target := b }

/-- `count <- n`. -/
def State.setCount (s : State) (n : Fin 5) : State := { s with count := n }

/-- `pending <- v`. -/
def State.setPending (s : State) (v : Word) : State := { s with pending := v }

/-- `rxArmed <- b`. -/
def State.setRxArmed (s : State) (b : Bool) : State := { s with rxArmed := b }

/-- `mode <- m`. -/
def State.setMode (s : State) (m : Mode) : State := { s with mode := m }

/-- `refused <- 1`, `refuseCode <- code`, `refuseWord <- w`: the three fields only change together (R38, R202). -/
def State.setRefusal (s : State) (code : BitVec 8) (w : EventWord) : State :=
  { s with refused := true, refuseCode := code, refuseWord := w }

/-- `emit o`: the record goes to the end of the output list (R11, R40). -/
def State.emit (s : State) (o : Output) : State := { s with outputs := s.outputs ++ [o] }

/-- The deliveries still to be processed (model's own, log 1). -/
def State.setInbox (s : State) (ds : List Delivery) : State := { s with inbox := ds }

/-- The declaration of R66 on the event being processed (model's own, log 6). -/
def State.setConcurrent (s : State) (b : Bool) : State := { s with concurrent := b }

/-- The reads of the handler of the event being processed (model's own, log 13). -/
def State.setHandlerReads (s : State) (is : List Index) : State := { s with handlerReads := is }

/-- The torn reads waiting for a step's end (model's own, log 6). -/
def State.setTorn (s : State) (is : List Index) : State := { s with torn := is }

/-- One free value has been used (model's own, log 9). -/
def State.nextDraw (s : State) : State := { s with draws := s.draws + 1 }

end Sys2Proof.Machine
end

