-- ==== Sys2Proof/Machine/Flags.lean ====
section
/-! DEFINITION. The block's one-bit state. It has no arithmetic flags and no condition codes (10_state.md, opening);
its flags are the read-only flags (R22, R23) and the monitor bit `rxArmed` (R36). -/

namespace Sys2Proof.Machine

/-- `ro[i] == 1` (R22). -/
def isReadOnly (s : State) (i : Nat) : Bool := s.ro.getD i false

/-- `RO_MASK`: the read-only flags as one mask, bit `i` guarding register `i` (R23). -/
def roMask (s : State) : BitVec s.ro.length := BitVec.ofBoolListLE s.ro

/-- A reception request is now outstanding (R36). -/
def armRx (s : State) : State := s.setRxArmed true

/-- The reception request was answered, overtaken or ended (R36). -/
def disarmRx (s : State) : State := s.setRxArmed false

/-- The mode is RUN: the interrupt is enabled (R37, 60_exceptions.md R204, R209). -/
def inRun (s : State) : Bool := s.mode == .run

end Sys2Proof.Machine
end

