-- ==== Sys2Proof/Machine/Operands.lean ====
section
/-! DEFINITION. Operand assembly: byte lanes and byte order (00_scope.md R10, 20_memory.md R62 to R64), error kinds
(30_encoding.md R85), the destination and frame of a reception request (41_transaction.md R146), the lengths and
frames of R40, and the encodings of `phase`, `mode` and the refusal codes. -/

namespace Sys2Proof.Machine

/-- Byte lane `k` of a value: `v[8k+7:8k]` (R10). -/
def lane (v : Word) (k : Nat) : Byte := v.extractLsb' (8 * k) 8

/-- `zext_32(b) << (8*k)`: a received byte in lane `k` (R85, R145). -/
def placeLane (b : Byte) (k : Nat) : Word := b.setWidth 32 <<< (8 * k)

/-- `{b3, b2, b1, b0}`: the value whose lanes are the four bytes (R10, R62). -/
def fromLanes (b0 b1 b2 b3 : Byte) : Word :=
  placeLane b0 0 ||| placeLane b1 1 ||| placeLane b2 2 ||| placeLane b3 3

/-- A value each of whose lanes is that lane of `before` or of `after`: lane `k` is `after`'s where bit `k` of the
mask is 1 (20_memory.md R66). -/
def mixLanes (mask : BitVec 4) (before after : Word) : Word :=
  let pick (k : Nat) : Byte := if mask.getLsbD k then lane after k else lane before k
  fromLanes (pick 0) (pick 1) (pick 2) (pick 3)

/-- `k == 0x01` is the no-acknowledge class, every other kind the other class (R85). -/
def isNack (k : Byte) : Bool := k == 0x01

/-- The destination of the request issued when `n` data bytes have arrived (R146). Used for n = 1, 2, 3. -/
def laneDest : Nat → RxDest
  | 1 => .lane1
  | 2 => .lane2
  | 3 => .lane3
  | _ => .lane0

/-- The frame of the request issued when `n` data bytes have arrived: `LAST` for the fourth byte's (R145, R146). -/
def laneFrame (n : Nat) : Frame := if n = 3 then .last else .next

/-- The `length` of a request record (R40). -/
def Output.length : Output → Nat
  | .reqRx _ _ => 1
  | .reqTx _ _ _ _ => 4
  | .reqListen | .callback _ _ | .appData _ => 0

/-- The frame tag of a request record (R40, R146). -/
def Output.frame : Output → Option Frame
  | .reqRx _ f => some f
  | .reqTx _ _ _ _ => some .firstAndLast
  | .reqListen | .callback _ _ | .appData _ => none

/-- The 2-bit encoding of `phase` (R30). -/
def Phase.bits : Phase → BitVec 2
  | .idle => 0b00
  | .address => 0b01
  | .data => 0b10

/-- The 1-bit encoding of `mode` (R37). -/
def Mode.bits : Mode → BitVec 1
  | .config => 0
  | .run => 1

/-- The refusal codes of R201. -/
def RefuseCause.code : RefuseCause → BitVec 8
  | .reserved => 0x01
  | .rxUnarmed => 0x02
  | .busInConfig => 0x03
  | .setupInRun => 0x04

end Sys2Proof.Machine
end

