-- ==== Sys2Proof/Machine/Ops.lean ====
section
/-! DEFINITION. The shared operations: refusing an event (60_exceptions.md R202), the mode checks (41_transaction.md
R140, 42_setup_and_host.md R182), the register table and its access policy (40_register_table.md R110 to R118), the
application read in both forms (42_setup_and_host.md R185, 20_memory.md R66), and what a step does around `exec`. -/

namespace Sys2Proof.Machine

/-- What a step or a part of one answers. -/
abbrev Result := Host.Outcome State Fault Refusal

/-- Go on with the rest of a step, unless it has stopped. -/
def andThen (r : Result) (k : State → Result) : Result :=
  match r with
  | .next s => k s
  | .fault f => .fault f
  | .refused f => .refused f

/-! ### Refusing an event -/

/-- `raise Refuse(code)` (R202): the state BEFORE the step with the three marks written; nothing emitted. It is a
next state, since the spec gives it (log 3). -/
def refuse (c : RefuseCause) (w : EventWord) (s : State) : Result := .next (s.setRefusal c.code w)

/-- `busPre()` (R140): a bus event is refused in CONFIG; in RUN the rest of its rule follows. -/
def busPre (i : Instr) (s : State) (k : State → Result) : Result :=
  match s.mode with
  | .config => refuse .busInConfig (encode i) s
  | .run => k s

/-- `if S.mode == RUN: raise Refuse(RF_SETUP_IN_RUN)` (R180, R181, R183): the check of a setup event. -/
def setupPre (i : Instr) (s : State) (k : State → Result) : Result :=
  match s.mode with
  | .run => refuse .setupInRun (encode i) s
  | .config => k s

/-! ### Register table and access policy -/

/-- `inBounds(i)`: `i < N`, unsigned at the full width of `i` (R110). -/
def inBounds (s : State) (i : Nat) : Bool := decide (i < s.params.regCount)

/-- `MemRead(i, 4)` (R111). -/
def memRead (s : State) (i : Nat) : Word :=
  if inBounds s i then s.reg.getD i 0 else Config.readSentinel

/-- `cb[i]`, 0 = no handler (R24). -/
def handlerOf (s : State) (i : Nat) : Word := s.cb.getD i 0

/-- The atomic form of AREAD (R185): one reply, nothing else. -/
def replyRead (i : Index) (s : State) : State := s.emit (.appData (memRead s i.toNat))

/-- The handler runs: the reads the host declares it makes are answered in order, from the state after the store
(R116, R71); it changes nothing else (R116; log 13). -/
def runHandler (s : State) : State := s.handlerReads.foldl (fun t i => replyRead i t) s

/-- What follows a handler's run: the rest of the step, or, where `CALLBACK_MAY_HANG` is true and the free draw
says so, no further step (R118; log 8). -/
def handlerReturns (s : State) : Result :=
  if s.params.callbackMayHang then
    if Config.freeHang s.draws then .fault .handlerHung else .next s.nextDraw
  else .next s

/-- `InvokeCallback(i)` (R115): the record, then the handler's run, before anything else of the step (R40, R71). -/
def invokeCallback (i : Nat) (s : State) : Result :=
  if handlerOf s i = 0 then .next s
  else handlerReturns (runHandler (s.emit (.callback i (handlerOf s i))))

/-- The store of MemWrite behind the read-only gate (R112, R69). -/
def storeUnlessReadOnly (i : Nat) (v : Word) (s : State) : State :=
  if isReadOnly s i then s else s.setReg i v

/-- `MemWrite(i, 4, v)` (R112): bounds check, read-only gate, then the callback, in this order (R71). The Boolean it
returns is `memWriteReached`; every caller discards it (R39). -/
def memWrite (i : Nat) (v : Word) (s : State) : Result :=
  if inBounds s i then invokeCallback i (storeUnlessReadOnly i v s) else .next s

/-- The Boolean `reached` that MemWrite returns: true exactly when the index is in bounds (R112, R39). -/
def memWriteReached (s : State) (i : Nat) : Bool := inBounds s i

/-- `SetReadOnly(i, v)` (R113). -/
def setReadOnly (i : Nat) (v : Word) (s : State) : State :=
  if inBounds s i then (s.setReg i v).setRo i else s

/-- `SetCallback(i, h)` (R114). -/
def setCallback (i : Nat) (h : Word) (s : State) : State :=
  if inBounds s i then s.setCb i h else s

/-! ### Transaction context -/

/-- `phase <- Idle; count <- 0; pending <- 0`: the end of a transaction (R145, R147). `target` is kept (R32, C1). -/
def idleContext (s : State) : State := ((s.setPhase .idle).setCount 0).setPending 0

/-- The condition of the no-acknowledge salvage (R147, R148). -/
def salvages (k : Byte) (s : State) : Bool :=
  isNack k && s.phase == .data && decide (1 ≤ s.count.val)

/-- The partial write of R148, where it applies. -/
def salvage (k : Byte) (s : State) : Result :=
  if salvages k s then memWrite s.target.toNat s.pending s else .next s

/-- The AddressPhase case of `RXC b`, after `rxArmed <- 0` (R143). -/
def indexByte (b : Byte) (s : State) : State :=
  (armRx ((((s.setTarget b).setPhase .data).setCount 0).setPending 0)).emit (.reqRx .lane0 .next)

/-- `DataByte(b)` (R145), after `rxArmed <- 0`. The byte lands in lane `count`; the fourth byte completes the write
with the phase already Idle. -/
def dataByte (b : Byte) (s : State) : Result :=
  let v := s.pending ||| placeLane b s.count.val
  if h : s.count.val + 1 < 4 then
    .next ((armRx ((s.setPending v).setCount ⟨s.count.val + 1, Nat.lt_succ_of_lt h⟩)).emit
      (.reqRx (laneDest (s.count.val + 1)) (laneFrame (s.count.val + 1))))
  else memWrite s.target.toNat v (idleContext s)

/-- Requests transmission of a value, least significant byte first, as one frame (R142, R63). -/
def transmit (v : Word) (s : State) : State :=
  s.emit (.reqTx (lane v 0) (lane v 1) (lane v 2) (lane v 3))

/-! ### Application read -/

/-- The host declared the read concurrent and `TORN_READS` admits it (R66). -/
def readsTorn (s : State) : Bool := s.params.tornReads && s.concurrent

/-- The torn form of AREAD, first half: the reply waits for the end of the step that follows (R66; log 6). -/
def deferRead (i : Index) (s : State) : State := s.setTorn (s.torn ++ [i])

/-- The torn form of AREAD, second half: each lane of the reply is that lane of the register before or after the
concurrent step, as a free value says (R66; log 9). `before` is the state before that step. -/
def replyTorn (before : State) (s : State) (i : Index) : State :=
  (s.emit (.appData
    (mixLanes (Config.freeLanes s.draws) (memRead before i.toNat) (memRead s i.toNat)))).nextDraw

/-- At the end of a step that did not itself join the waiting reads, every waiting read is answered, after the
step's own outputs (R66). -/
def answerTorn (before after : State) : State :=
  if after.torn = before.torn then before.torn.foldl (replyTorn before) (after.setTorn []) else after

/-! ### Around `exec` -/

/-- The host's move: deliver an event, behind those already delivered (60_exceptions.md R210, R205). -/
def State.deliver (s : State) (d : Delivery) : State := s.setInbox (s.inbox ++ [d])

/-- A delivery placed where the next step takes it: in front of the others (log 1). -/
def State.deliverFirst (s : State) (w : EventWord) : State := s.setInbox ({ word := w } :: s.inbox)

/-- The check every step begins with: `if S.refused == 1: no step (the instance is stuck)` (R202, R38; log 3). -/
def globalCheck (s : State) (k : State → Result) : Result :=
  if s.refused then .fault .instanceStuck else k s

/-- With no delivery the block waits, unchanged: waiting is not a state of its own (R215; log 2). -/
def awaitEvent (s : State) : Result := .next s

/-- The block takes the oldest delivery `d`; `rest` are the others. -/
def takeDelivery (d : Delivery) (rest : List Delivery) (s : State) : State :=
  ((s.setInbox rest).setConcurrent d.concurrent).setHandlerReads d.handlerReads

/-- The end of a step: waiting application reads are answered and what the host declared is used up. -/
def finishStep (before after : State) : State :=
  ((answerTorn before after).setConcurrent false).setHandlerReads []

/-- The rest of a step whose event answers `r` from the state `before` (R66). -/
def stepEvent (before : State) (r : Result) : Result :=
  andThen r fun after => .next (finishStep before after)

/-- A reserved word is refused with its own bits (30_encoding.md R89, R202). -/
def refuseReserved (w : EventWord) (s : State) : Result := refuse .reserved w s

end Sys2Proof.Machine
end

