-- ==== Sys2Proof/Machine/BusEvents.lean ====
section
/-! DEFINITION. The meanings of the five bus events (41_transaction.md R141 to R150). Each first runs `busPre`
(R140). -/

namespace Sys2Proof.Machine

/-- `ADDR.W` (R141). Accepted in every phase; a partial write is discarded without salvage (C4). -/
def execAddrW (s : State) : Result :=
  busPre .addrW s fun s =>
    .next ((armRx (((s.setPhase .address).setCount 0).setPending 0)).emit (.reqRx .target .first))

/-- `ADDR.R` (R142). The write context is kept (R154). -/
def execAddrR (s : State) : Result :=
  busPre .addrR s fun s => .next (transmit (memRead s s.target.toNat) (disarmRx s))

/-- `RXC b` (R143 to R145). -/
def execRxc (b : Byte) (s : State) : Result :=
  busPre (.rxc b) s fun s =>
    if s.rxArmed = false then refuse .rxUnarmed (encode (.rxc b)) s
    else match s.phase with
      | .idle => refuse .rxUnarmed (encode (.rxc b)) s
      | .address => .next (indexByte b (disarmRx s))
      | .data => dataByte b (disarmRx s)

/-- `ERR k` (R147 to R149). -/
def execErr (k : Byte) (s : State) : Result :=
  busPre (.err k) s fun s =>
    andThen (salvage k s) fun s => .next ((disarmRx (idleContext s)).emit .reqListen)

/-- `LISTEN` (R150). The phase and a partial write are kept. -/
def execListen (s : State) : Result :=
  busPre .listen s fun s => .next ((disarmRx s).emit .reqListen)

end Sys2Proof.Machine
end

