-- ==== Sys2Proof/Machine/HostEvents.lean ====
section
/-! DEFINITION. The meanings of the four host events (42_setup_and_host.md R180 to R185). -/

namespace Sys2Proof.Machine

/-- `SETRO i, v` (R180). -/
def execSetro (i : Index) (v : Word) (s : State) : Result :=
  setupPre (.setro i v) s fun s => .next (setReadOnly i.toNat v s)

/-- `SETCB i, h` (R181). -/
def execSetcb (i : Index) (h : Word) (s : State) : Result :=
  setupPre (.setcb i h) s fun s => .next (setCallback i.toNat h s)

/-- `ENABLE` (R183). -/
def execEnable (s : State) : Result :=
  setupPre .enable s fun s => .next ((s.setMode .run).emit .reqListen)

/-- `AREAD i` (R185), atomic, or torn where the host declared it concurrent and `TORN_READS` is true (R66).
Accepted in both modes. -/
def execAread (i : Index) (s : State) : Result :=
  .next (if readsTorn s then deferRead i s else replyRead i s)

end Sys2Proof.Machine
end

