-- ==== Sys2Proof/Machine/Dispatch.lean ====
section
/-! DEFINITION. One arm per event (30_encoding.md R86). -/

namespace Sys2Proof.Machine

/-- What an event does to the state. -/
def exec (i : Instr) (s : State) : Host.Outcome State Fault Refusal :=
  match i with
  | .addrW => Sys2Proof.Machine.execAddrW s
  | .addrR => Sys2Proof.Machine.execAddrR s
  | .rxc b => Sys2Proof.Machine.execRxc b s
  | .listen => Sys2Proof.Machine.execListen s
  | .err k => Sys2Proof.Machine.execErr k s
  | .setro r v => Sys2Proof.Machine.execSetro r v s
  | .setcb r h => Sys2Proof.Machine.execSetcb r h s
  | .enable => Sys2Proof.Machine.execEnable s
  | .aread r => Sys2Proof.Machine.execAread r s

end Sys2Proof.Machine
end

