-- ==== Sys2Proof/Machine/Step.lean ====
section
/-! DEFINITION. One step (00_scope.md R12, 60_exceptions.md R202): the global check, the oldest delivery, decoding
(30_encoding.md R87), the event's meaning, the replies of waiting application reads (20_memory.md R66). -/

namespace Sys2Proof.Machine

/-- The step of one delivered event, taken into the state already (R87, R202). -/
def processEvent (w : EventWord) (s : State) : Host.Outcome State Fault Refusal :=
  match decode w with
  | .event i => stepEvent s (exec i s)
  | .reserved _ => stepEvent s (refuseReserved w s)

/-- One step. -/
def step (s : State) : Host.Outcome State Fault Refusal :=
  globalCheck s fun s =>
    match s.inbox with
    | [] => awaitEvent s
    | d :: rest => processEvent d.word (takeDelivery d rest s)

/-- `s` with a table word delivered where `step` takes its next event (log 1). -/
def State.withFetchWord (s : State) (nbits w : Nat) : State := s.deliverFirst (tableWord nbits w)

end Sys2Proof.Machine
end

