-- ==== Sys2Proof/Machine/Run.lean ====
section
/-! DEFINITION. Runs (60_exceptions.md R217) and several instances (R213). -/

namespace Sys2Proof.Machine

/-- The state after the last step of a run that delivers `ds` in order, one step each, from `s` (R217). Where the
instance takes no step (R202), the later deliveries change nothing. DESIGN CHOICE (log 8): where a handler hangs, a run
that is no completed execution (R118), the state answered is the one before the hung step, without that step's records,
and `good` is read off it; R217 gives such a run no final state. -/
def runFrom : State → List Delivery → State
  | s, [] => s
  | s, d :: ds =>
    match step (s.deliver d) with
    | .next t => runFrom t ds
    | .fault _ => s
    | .refused _ => s

/-- Event words as deliveries that are declared concurrent with nothing. -/
def deliveries (ws : List EventWord) : List Delivery := ws.map fun w => { word := w }

/-- The final state of a run: event words delivered from the reset state (R217). -/
def run (ws : List EventWord) : State := runFrom .reset (deliveries ws)

/-- The final state of a run of events from `s`. -/
def runEvents (s : State) (is : List Instr) : State := runFrom s (deliveries (is.map encode))

/-- Several instances, one bus each: a step of the `k`-th. Instances share nothing (R213; log 14).
DESIGN CHOICE (logs 9, 14): the free values are one function of the draw counter for all instances, so two instances
whose counters are equal get equal draws; R213 does not tie them. -/
def stepOne (k : Nat) (m : List State) : Host.Outcome (List State) Fault Refusal :=
  match m[k]? with
  | none => .next m
  | some s =>
    match step s with
    | .next t => .next (m.set k t)
    | .fault f => .fault f
    | .refused r => .refused r

end Sys2Proof.Machine
end

