-- ==== Sys2Proof/Machine/Assembler.lean ====
section
/-! DEFINITION. Programs as a person writes them: the pseudo-instructions of 30_encoding.md R92 expand to events, and
the syntax of R91 is read line by line. -/

namespace Sys2Proof.Machine

/-- `RXC` of a written number. -/
def rxcOf (n : Nat) : Instr := .rxc (BitVec.ofNat 8 n)

/-- The four bytes of a written value, least significant first (R92 `WRITE32`, R62). -/
def rxcLanes (v : Nat) : List Instr :=
  let w : Word := BitVec.ofNat 32 v
  [.rxc (lane w 0), .rxc (lane w 1), .rxc (lane w 2), .rxc (lane w 3)]

/-- The events an assembler line stands for (R91, R92). -/
def expand : Asm → List Instr
  | .addrW => [.addrW]
  | .addrR => [.addrR]
  | .rxc b => [rxcOf b]
  | .listen => [.listen]
  | .errNack => [.err 0x01]
  | .errOther => [.err 0x00]
  | .err k => [.err (BitVec.ofNat 8 k)]
  | .setro i v => [.setro (BitVec.ofNat 16 i) (BitVec.ofNat 32 v)]
  | .setcb i h => [.setcb (BitVec.ofNat 16 i) (BitVec.ofNat 32 h)]
  | .enable => [.enable]
  | .aread i => [.aread (BitVec.ofNat 16 i)]
  | .write32 i v => [.addrW, rxcOf i] ++ rxcLanes v ++ [.listen]
  | .writeShort i bytes => [.addrW, rxcOf i] ++ bytes.map rxcOf ++ [.err 0x01]
  | .setptr i => [.addrW, rxcOf i]
  | .read32 => [.addrR, .listen]
  | .read32At i => [.addrW, rxcOf i, .addrR, .listen]

/-- The event words of a program; none where an operand is out of range (R91). -/
def assemble (lines : List Asm) : Option (List EventWord) :=
  if lines.all Asm.wf then some ((lines.flatMap expand).map encode) else none

/-! ### Reading text (R91) -/

/-- The characters between the operands of a line: blanks and the comma (log 12). -/
def isSeparator (c : Char) : Bool := c == ' ' || c == '\t' || c == ','

/-- The words of a line; `word` is the one being read. -/
def wordsFrom : List Char → List Char → List (List Char)
  | word, [] => if word.isEmpty then [] else [word]
  | word, c :: cs =>
    if isSeparator c then (if word.isEmpty then wordsFrom [] cs else word :: wordsFrom [] cs)
    else wordsFrom (word ++ [c]) cs

/-- The words of a line before its comment: `;` starts a comment (R91). -/
def lineWords (line : List Char) : List (List Char) := wordsFrom [] (line.takeWhile (· != ';'))

/-- The value of a digit in a base, for bases up to 16. -/
def digitValue (base : Nat) (c : Char) : Option Nat :=
  let n := c.toNat
  let d := if 48 ≤ n ∧ n ≤ 57 then n - 48
    else if 97 ≤ n ∧ n ≤ 102 then n - 87
    else if 65 ≤ n ∧ n ≤ 70 then n - 55
    else 16
  if d < base then some d else none

/-- The digits of a number after those already read. -/
def digitsFrom (base : Nat) : Nat → List Char → Option Nat
  | acc, [] => some acc
  | acc, c :: cs => (digitValue base c).bind fun d => digitsFrom base (base * acc + d) cs

/-- A number: decimal, or `0x` hexadecimal (R91). -/
def readNumber : List Char → Option Nat
  | [] => none
  | '0' :: 'x' :: c :: cs => digitsFrom 16 0 (c :: cs)
  | c :: cs => digitsFrom 10 0 (c :: cs)

/-- All the numbers of a list of words. -/
def readNumbers : List (List Char) → Option (List Nat)
  | [] => some []
  | w :: ws => (readNumber w).bind fun n => (readNumbers ws).map (n :: ·)

/-- The line of a keyword with number operands (R91, R92). -/
def lineOfNumbers (keyword : List Char) (ns : List Nat) : Option Asm :=
  if keyword = "RXC".toList then match ns with
    | [b] => some (.rxc b)
    | _ => none
  else if keyword = "LISTEN".toList then match ns with
    | [] => some .listen
    | _ => none
  else if keyword = "ERR".toList then match ns with
    | [k] => some (.err k)
    | _ => none
  else if keyword = "SETRO".toList then match ns with
    | [i, v] => some (.setro i v)
    | _ => none
  else if keyword = "SETCB".toList then match ns with
    | [i, h] => some (.setcb i h)
    | _ => none
  else if keyword = "ENABLE".toList then match ns with
    | [] => some .enable
    | _ => none
  else if keyword = "AREAD".toList then match ns with
    | [i] => some (.aread i)
    | _ => none
  else if keyword = "WRITE32".toList then match ns with
    | [i, v] => some (.write32 i v)
    | _ => none
  else if keyword = "WRITESHORT".toList then match ns with
    | i :: bytes => some (.writeShort i bytes)
    | _ => none
  else if keyword = "SETPTR".toList then match ns with
    | [i] => some (.setptr i)
    | _ => none
  else if keyword = "READ32".toList then match ns with
    | [] => some .read32
    | [i] => some (.read32At i)
    | _ => none
  else none

/-- The line its words write; `ADDR` and `ERR` also take names (R91). -/
def lineOfWords (keyword : List Char) (operands : List (List Char)) : Option Asm :=
  if keyword = "ADDR".toList then
    if operands = ["W".toList] then some .addrW
    else if operands = ["R".toList] then some .addrR
    else none
  else if keyword = "ERR".toList ∧ operands = ["NACK".toList] then some .errNack
  else if keyword = "ERR".toList ∧ operands = ["OTHER".toList] then some .errOther
  else (readNumbers operands).bind (lineOfNumbers keyword)

/-- One line of a program: nothing for a blank line, none where it is no line of R91 or R92. -/
def readLine (line : List Char) : Option (List Asm) :=
  match lineWords line with
  | [] => some []
  | keyword :: operands => (lineOfWords keyword operands).map ([·])

/-- The lines of a program in order. -/
def readLines : List (List Char) → Option (List Asm)
  | [] => some []
  | l :: ls => (readLine l).bind fun a => (readLines ls).map (a ++ ·)

/-- A program, one line a string (R91): its event words. -/
def assembleText (lines : List String) : Option (List EventWord) :=
  (readLines (lines.map String.toList)).bind assemble

end Sys2Proof.Machine
end

