-- ==== Sys2Proof/Safety.lean ====
section
/-! DEFINITION. The terms claims use: a good state (60_exceptions.md R217), the form of the register table (10_state.md
R21), the invariants of R35, and, for each event in a state, the write it makes (40_register_table.md R119) and the
refusal it meets first (60_exceptions.md R203). -/

namespace Sys2Proof.Machine

/-- `refused == 0`: a run that ends here is good (R217). -/
def State.good (s : State) : Bool := !s.refused

/-- The one form of the register table: exactly N slots in each of its three arrays (R21, R22, R24), so that equal
tables are equal data. -/
abbrev Memory.wf (s : State) : Prop :=
  s.reg.length = s.params.regCount ∧ s.ro.length = s.params.regCount ∧ s.cb.length = s.params.regCount

/-- The invariants that hold between any two steps. -/
structure State.Inv (s : State) : Prop where
  /-- R6 -/
  paramsLegal : s.params.legal
  /-- R21, R22, R24 -/
  tableSized : Memory.wf s
  /-- R35, first item -/
  outsideData : s.phase ≠ .data → s.count = 0 ∧ s.pending = 0
  /-- R35, second item, the count -/
  countInData : s.phase = .data → s.count.val ≤ 3
  /-- R35, second item, the lanes not received yet -/
  highLanesZero : s.phase = .data → ∀ k : Nat, s.count.val ≤ k → k ≤ 3 → lane s.pending k = 0
  /-- R35, third item -/
  armedOnlyInWrite : s.rxArmed = true → s.phase ≠ .idle
  /-- R35, fourth item -/
  configIsQuiet : s.mode = .config →
    s.phase = .idle ∧ s.target = 0 ∧ s.count = 0 ∧ s.pending = 0 ∧ s.rxArmed = false
  /-- R38, R42: no code and no word before the first refusal -/
  unrefusedIsBlank : s.refused = false → s.refuseCode = 0 ∧ s.refuseWord = 0
  /-- R201: a refusal has one of the four codes -/
  refusedHasCode : s.refused = true → ∃ c : RefuseCause, s.refuseCode = c.code

/-- A state between steps in which nothing is under way around `exec`: not refused, no delivery left, no application
read waiting, nothing declared. -/
structure State.Ready (s : State) : Prop where
  unrefused : s.refused = false
  noDelivery : s.inbox = []
  noneWaiting : s.torn = []
  undeclared : s.concurrent = false
  noHandlerReads : s.handlerReads = []

/-- The bus events (41_transaction.md). -/
def isBusEvent : Instr → Bool
  | .addrW | .addrR | .rxc _ | .listen | .err _ => true
  | .setro _ _ | .setcb _ _ | .enable | .aread _ => false

/-- The events refused after ENABLE (R182, R183). -/
def isSetupEvent : Instr → Bool
  | .setro _ _ | .setcb _ _ | .enable => true
  | .addrW | .addrR | .rxc _ | .listen | .err _ | .aread _ => false

/-- `RXC` with no outstanding request, or in Idle (R143, R144). -/
def receivesUnarmed (i : Instr) (s : State) : Bool :=
  match i with
  | .rxc _ => !s.rxArmed || s.phase == .idle
  | .addrW | .addrR | .listen | .err _ | .setro _ _ | .setcb _ _ | .enable | .aread _ => false

/-- The first cause, in the order of R203, for which an event word is refused. -/
def firstRefusal (w : EventWord) (s : State) : Option RefuseCause :=
  match decode w with
  | .reserved _ => some .reserved
  | .event i =>
    if isBusEvent i ∧ s.mode = .config then some .busInConfig
    else if isSetupEvent i ∧ s.mode = .run then some .setupInRun
    else if receivesUnarmed i s then some .rxUnarmed
    else none

/-- The MemWrite an event makes, its index and value (R119): the fourth data byte, or the salvage of a no-acknowledge
error. -/
def memWriteOf (i : Instr) (s : State) : Option (Nat × Word) :=
  match i with
  | .rxc b =>
    if s.mode = .run ∧ s.rxArmed = true ∧ s.phase = .data ∧ 3 ≤ s.count.val then
      some (s.target.toNat, s.pending ||| placeLane b s.count.val)
    else none
  | .err k => if s.mode = .run ∧ salvages k s = true then some (s.target.toNat, s.pending) else none
  | .addrW | .addrR | .listen | .setro _ _ | .setcb _ _ | .enable | .aread _ => none

/-- The SetReadOnly an event makes (R119). -/
def setReadOnlyOf (i : Instr) (s : State) : Option (Nat × Word) :=
  match i with
  | .setro r v => if s.mode = .config then some (r.toNat, v) else none
  | .addrW | .addrR | .rxc _ | .listen | .err _ | .setcb _ _ | .enable | .aread _ => none

/-- The register an event stores to and the value it stores: MemWrite behind the bounds check and the read-only gate
(R112), SetReadOnly behind the bounds check (R113). -/
def storeOf (i : Instr) (s : State) : Option (Nat × Word) :=
  match memWriteOf i s with
  | some (a, v) => if inBounds s a = true ∧ isReadOnly s a = false then some (a, v) else none
  | none =>
    match setReadOnlyOf i s with
    | some (a, v) => if inBounds s a = true then some (a, v) else none
    | none => none

/-- The register table after MemWrite (R112). -/
def tableAfterWrite (s : State) (i : Nat) (v : Word) : List Word :=
  if inBounds s i = true ∧ isReadOnly s i = false then s.reg.set i v else s.reg

/-- The replies to the reads a running handler makes in this state (40_register_table.md R116; log 13). -/
def handlerReplies (s : State) : List Output := s.handlerReads.map fun j => .appData (memRead s j.toNat)

/-- The records of invoking the callback of register `i` in this state, behind MemWrite's bounds check (R112, R115):
the callback, then the replies its handler gets. -/
def callbackRecords (s : State) (i : Nat) : List Output :=
  if inBounds s i = true ∧ handlerOf s i ≠ 0 then .callback i (handlerOf s i) :: handlerReplies s else []

/-- The records MemWrite emits: those of the callback in the state after the store (R71, R112). -/
def memWriteRecords (s : State) (i : Nat) (v : Word) : List Output :=
  callbackRecords { s with reg := tableAfterWrite s i v } i

/-- The value of a short write: the received bytes in the low lanes, zero above (20_memory.md R64). -/
def shortValue (bytes : List Byte) : Word :=
  fromLanes (bytes.getD 0 0) (bytes.getD 1 0) (bytes.getD 2 0) (bytes.getD 3 0)

/-- The stores of a run, oldest first: one `storeOf` for each event that is processed. -/
def runStores : State → List Delivery → List (Nat × Word)
  | _, [] => []
  | s, d :: ds =>
    match step (s.deliver d) with
    | .next t =>
      (match decode d.word with
        | .event i => (storeOf i s).toList
        | .reserved _ => []) ++ runStores t ds
    | .fault _ => []
    | .refused _ => []

/-- What the last of some stores to register `i` left there, or the earlier value (20_memory.md R70). -/
def lastStored (i : Nat) (earlier : Word) (stores : List (Nat × Word)) : Word :=
  stores.foldl (fun v st => if st.1 = i then st.2 else v) earlier

end Sys2Proof.Machine
end

