-- ==== Sys2Proof/Certificates/Slice0/Obligations.lean ====
section
/-! DEFINITION. The statements about the model, from the numbered rules of spec/. Nothing is proved here. -/

open Sys2Proof Sys2Proof.Machine

/-! ### Reset -/

/-- R42: the value of every field after reset, for every parameter choice, and the parameters of `State.reset`. -/
def Obligations.ResetLeavesSpecValues : Prop :=
  (∀ (p : Params) (i : Nat), i < p.regCount →
    (State.resetWith p).reg[i]? = some 0x00000000 ∧ (State.resetWith p).ro[i]? = some false ∧
      (State.resetWith p).cb[i]? = some 0) ∧
  (∀ p : Params, let s := State.resetWith p
    s.phase = .idle ∧ s.target = 0x00 ∧ s.count = 0 ∧ s.pending = 0x00000000 ∧ s.rxArmed = false ∧
      s.mode = .config ∧ s.refused = false ∧ s.refuseCode = 0x00 ∧ s.refuseWord = 0x0000000000000000) ∧
  State.reset = State.resetWith { regCount := 32, tornReads := true, callbackMayHang := false }

/-! ### Encoding -/

/-- Words written out from the event map of 30_encoding.md section 3 decode to the events they stand for. -/
def Obligations.DecodeReadsWordsOfTheMap : Prop :=
  decode 0x0100000000000000 = .event .addrW ∧
  decode 0x0101000000000000 = .event .addrR ∧
  decode 0x02AA000000000000 = .event (.rxc 0xAA) ∧
  decode 0x0300000000000000 = .event .listen ∧
  decode 0x047F000000000000 = .event (.err 0x7F) ∧
  decode 0x10000002CAFEF00D = .event (.setro 2 0xCAFEF00D) ∧
  decode 0x1100FFFF00000021 = .event (.setcb 0xFFFF 0x21) ∧
  decode 0x1200000000000000 = .event .enable ∧
  decode 0x2000002800000000 = .event (.aread 40)

/-- Every event has exactly one word and every word that decodes is that of its event (30_encoding.md section 2: one
spelling for each event and operand). -/
def Obligations.DecodeAndEncodeAgree : Prop :=
  ∀ (i : Instr) (w : EventWord), decode w = .event i ↔ encode i = w

/-- R89: exactly the listed words are reserved, the two ERR classes and all 256 kinds are legal, and a step refuses a
reserved word with code 0x01 and its own bits, in either mode, whatever reads wait (a read declared concurrent with the
step is still answered, the model's choice, log 7). -/
def Obligations.ExactlyReservedWordsAreRefused : Prop :=
  (∀ w : EventWord, (∃ r, decode w = .reserved r) ↔
    ((∀ op ∈ [0x01, 0x02, 0x03, 0x04, 0x10, 0x11, 0x12, 0x20], w.extractLsb' 56 8 ≠ op) ∨
     (w.extractLsb' 56 8 = 0x01#8 ∧ w.extractLsb' 48 8 ≠ 0x00#8 ∧ w.extractLsb' 48 8 ≠ 0x01#8) ∨
     (w.extractLsb' 56 8 ∈ [0x03#8, 0x10#8, 0x11#8, 0x12#8, 0x20#8] ∧ w.extractLsb' 48 8 ≠ 0x00#8) ∨
     (w.extractLsb' 56 8 ∈ [0x01#8, 0x02#8, 0x03#8, 0x04#8, 0x12#8] ∧ w.extractLsb' 32 16 ≠ 0#16) ∨
     (w.extractLsb' 56 8 ∈ [0x01#8, 0x02#8, 0x03#8, 0x04#8, 0x12#8, 0x20#8] ∧ w.extractLsb' 0 32 ≠ 0#32))) ∧
  (∀ (s : State) (d : Delivery) (rest : List Delivery) (r : Reserved),
    s.refused = false → s.inbox = d :: rest → s.torn = [] → decode d.word = .reserved r →
    step s = .next { s with
      inbox := rest, concurrent := false, handlerReads := []
      refused := true, refuseCode := 0x01, refuseWord := d.word }) ∧
  (∀ (s : State) (d : Delivery) (rest : List Delivery) (r : Reserved),
    s.refused = false → s.inbox = d :: rest → decode d.word = .reserved r →
    ∃ t, step s = .next t ∧ t.refused = true ∧ t.refuseCode = 0x01 ∧ t.refuseWord = d.word ∧
      t.reg = s.reg ∧ t.ro = s.ro ∧ t.cb = s.cb)

/-- R86: a word is an event of a row exactly when its masked bits are the row's match value. -/
def Obligations.WordIsEventOfRowWhenMaskedBitsMatch : Prop :=
  ∀ (w : EventWord) (i : Instr),
    w &&& rowMask i = rowMatch i ↔ ∃ j, decode w = .event j ∧ rowMatch j = rowMatch i ∧ rowMask j = rowMask i

/-! ### One step -/

/-- A step takes the oldest delivery with what the host declares on it, runs `exec` of the event it decodes to, then ends
(`finishStep`). The model's own choices: deliveries and the host's declarations on them (logs 1, 6, 13); `finishStep`
answers waiting application reads at the end of the step (20_memory.md section 4 and log 6), also where the event was
refused (log 7); a stop of `exec` is the stop of the step (log 8). -/
def Obligations.StepRunsDecodedEvent : Prop :=
  ∀ (s : State) (d : Delivery) (rest : List Delivery) (i : Instr),
    s.refused = false → s.inbox = d :: rest → decode d.word = .event i →
    step s =
      let u := { s with inbox := rest, concurrent := d.concurrent, handlerReads := d.handlerReads }
      match exec i u with
      | .next t => .next (finishStep u t)
      | .fault f => .fault f
      | .refused r => .refused r

/-- Where no application read waits and the host declares nothing, a step IS `exec` of the decoded event on the state
without the delivery (deliveries and declarations are the model's own, logs 1, 6, 13). -/
def Obligations.UndeclaredStepIsExec : Prop :=
  ∀ (s : State) (d : Delivery) (rest : List Delivery) (i : Instr),
    s.refused = false → s.inbox = d :: rest → decode d.word = .event i → s.torn = [] → d.concurrent = false →
    d.handlerReads = [] → step s = exec i { s with inbox := rest, concurrent := false, handlerReads := [] }

/-- The word `withFetchWord` places is the one the next step runs (model's convention, log 1). -/
def Obligations.FetchWordRunsNext : Prop :=
  ∀ (s : State) (i : Instr), s.refused = false → s.torn = [] →
    step (s.withFetchWord 64 (encode i).toNat) = exec i { s with concurrent := false, handlerReads := [] }

/-- A refused instance takes no step, whatever is delivered (R38 and R202; that the model answers this with the
fault `instanceStuck` is its own choice, log 3). -/
def Obligations.RefusedInstanceIsStuck : Prop :=
  ∀ s : State, s.refused = true → step s = .fault .instanceStuck ∧ ∀ ds, runFrom s ds = s

/-- Where handlers return, every event completes with a next state, and so does every step of an instance that is not
refused: the machine never halts (10_state.md section 3). The model's own choices: a step with no delivery answers the
same state (log 2), where the spec gives no step; a refusal is a next state (log 3). -/
def Obligations.MachineNeverHalts : Prop :=
  ∀ s : State, s.params.callbackMayHang = false →
    (∀ i : Instr, ∃ t, exec i s = .next t) ∧ (s.refused = false → ∃ t, step s = .next t)

/-! ### Refusals -/

/-- R203: the first cause in the order reserved word, mode, unarmed receive decides; the refused step changes nothing
but the three marks and consumes the delivery; where no cause applies the step refuses nothing. -/
def Obligations.FirstRefusalCauseIsReported : Prop :=
  ∀ (s : State) (d : Delivery) (rest : List Delivery),
    s.refused = false → s.inbox = d :: rest →
    (∀ c, firstRefusal d.word s = some c → s.torn = [] →
      step s = .next { s with
        inbox := rest, concurrent := false, handlerReads := []
        refused := true, refuseCode := c.code, refuseWord := d.word }) ∧
    (∀ c, firstRefusal d.word s = some c →
      ∃ t, step s = .next t ∧ t.refused = true ∧ t.refuseCode = c.code ∧ t.refuseWord = d.word) ∧
    (firstRefusal d.word s = none → ∀ t, step s = .next t → t.refused = false)

/-- R38: the marks are those of the first refusal, no step clears them, and a refused instance takes no further step,
whatever is delivered. -/
def Obligations.RefusalMarksAreSticky : Prop :=
  (∀ s t : State, step s = .next t →
    s.refused = false ∧
    (t.refused = true → ∃ d rest c, s.inbox = d :: rest ∧ firstRefusal d.word s = some c ∧
      t.refuseCode = c.code ∧ t.refuseWord = d.word) ∧
    (t.refused = false → t.refuseCode = s.refuseCode ∧ t.refuseWord = s.refuseWord)) ∧
  (∀ (s : State) (ds : List Delivery), s.refused = true → (∀ t, step s ≠ .next t) ∧ runFrom s ds = s)

/-- R140: every bus event in CONFIG is refused with RF_BUS_IN_CONFIG, and nothing else changes. -/
def Obligations.BusEventsAreRefusedInConfig : Prop :=
  ∀ (i : Instr) (s : State), s.mode = .config → isBusEvent i = true →
    exec i s = .next { s with refused := true, refuseCode := 0x03, refuseWord := encode i }

/-- 42_setup_and_host.md section 1 (R182, R183): SETRO, SETCB and ENABLE in RUN are refused with RF_SETUP_IN_RUN, and
nothing else changes. -/
def Obligations.SetupEventsAreRefusedInRun : Prop :=
  ∀ (i : Instr) (s : State), s.mode = .run → isSetupEvent i = true →
    exec i s = .next { s with refused := true, refuseCode := 0x04, refuseWord := encode i }

/-! ### Bus events -/

/-- R141. Everything not named is unchanged, `target` and the register table among it. -/
def Obligations.AddressMatchWriteStartsTransaction : Prop :=
  ∀ s : State,
    (s.mode = .config → exec .addrW s = .next { s with
      refused := true, refuseCode := 0x03, refuseWord := 0x0100000000000000 }) ∧
    (s.mode = .run → exec .addrW s = .next { s with
      phase := .address, count := 0, pending := 0, rxArmed := true,
      outputs := s.outputs ++ [.reqRx .target .first] })

/-- R142. The value read is transmitted least significant byte first; only `rxArmed` and the outputs change. -/
def Obligations.AddressMatchReadTransmitsTarget : Prop :=
  ∀ s : State,
    (s.mode = .config → exec .addrR s = .next { s with
      refused := true, refuseCode := 0x03, refuseWord := 0x0101000000000000 }) ∧
    (s.mode = .run → let v := memRead s s.target.toNat
      exec .addrR s = .next { s with
        rxArmed := false,
        outputs := s.outputs ++
          [.reqTx (v.extractLsb' 0 8) (v.extractLsb' 8 8) (v.extractLsb' 16 8) (v.extractLsb' 24 8)] })

/-- R143, R144: the dispatch of RXC, the index byte, and the refusal of a byte no request asked for. -/
def Obligations.ReceiveCompleteDispatches : Prop :=
  ∀ (b : Byte) (s : State),
    (s.mode = .config → exec (.rxc b) s = .next { s with
      refused := true, refuseCode := 0x03, refuseWord := encode (.rxc b) }) ∧
    (s.mode = .run → (s.rxArmed = false ∨ s.phase = .idle) → exec (.rxc b) s = .next { s with
      refused := true, refuseCode := 0x02, refuseWord := encode (.rxc b) }) ∧
    (s.mode = .run → s.rxArmed = true → s.phase = .address → exec (.rxc b) s = .next { s with
      target := b, phase := .data, count := 0, pending := 0, rxArmed := true,
      outputs := s.outputs ++ [.reqRx .lane0 .next] }) ∧
    (s.mode = .run → s.rxArmed = true → s.phase = .data →
      exec (.rxc b) s = dataByte b { s with rxArmed := false })

/-- R145: a data byte goes to lane `count` and the next byte is requested, the fourth with frame LAST; the fourth byte
leaves Idle and makes the MemWrite. -/
def Obligations.DataByteAccumulatesThenWrites : Prop :=
  ∀ (b : Byte) (s : State), s.mode = .run → s.rxArmed = true → s.phase = .data →
    (∀ (n : Fin 5) (dest : RxDest) (frame : Frame),
      (s.count = 0 ∧ n = 1 ∧ dest = .lane1 ∧ frame = .next) ∨
      (s.count = 1 ∧ n = 2 ∧ dest = .lane2 ∧ frame = .next) ∨
      (s.count = 2 ∧ n = 3 ∧ dest = .lane3 ∧ frame = .last) →
      exec (.rxc b) s = .next { s with
        pending := s.pending ||| b.setWidth 32 <<< (8 * s.count.val), count := n, rxArmed := true,
        outputs := s.outputs ++ [.reqRx dest frame] }) ∧
    (s.count = 3 →
      exec (.rxc b) s = memWrite s.target.toNat (s.pending ||| b.setWidth 32 <<< 24)
        { s with phase := .idle, count := 0, pending := 0, rxArmed := false })

/-- The fourth data byte completes (41_transaction.md section 3 and 40_register_table.md section 3): the whole next
state where handlers return, the replies to the handler's own reads (log 13) among the records. -/
def Obligations.FourthByteStoresAndInvokes : Prop :=
  ∀ (b : Byte) (s : State),
    s.mode = .run → s.rxArmed = true → s.phase = .data → s.count = 3 → s.params.callbackMayHang = false →
    let reg' := if s.target.toNat < s.params.regCount ∧ isReadOnly s s.target.toNat = false then
      s.reg.set s.target.toNat (s.pending ||| b.setWidth 32 <<< 24) else s.reg
    exec (.rxc b) s = .next { s with
      reg := reg', phase := .idle, count := 0, pending := 0, rxArmed := false
      outputs := s.outputs ++
        (if s.target.toNat < s.params.regCount ∧ handlerOf s s.target.toNat ≠ 0 then
          .callback s.target.toNat (handlerOf s s.target.toNat) :: handlerReplies { s with reg := reg' } else []) }

/-- R147: ERR k in every phase: the salvage where it applies, then the reset of the context and one REQ_LISTEN, last.
(Where the MemWrite of a salvage goes on; a hanging handler is `Obligations.HangingHandlerStopsTheStep`.) -/
def Obligations.ErrorResetsAndRearms : Prop :=
  ∀ (k : Byte) (s : State),
    (s.mode = .config → exec (.err k) s = .next { s with
      refused := true, refuseCode := 0x03, refuseWord := encode (.err k) }) ∧
    (s.mode = .run → ¬ (k = 0x01 ∧ s.phase = .data ∧ 1 ≤ s.count.val) → exec (.err k) s = .next { s with
      phase := .idle, count := 0, pending := 0, rxArmed := false, outputs := s.outputs ++ [.reqListen] }) ∧
    (s.mode = .run → (k = 0x01 ∧ s.phase = .data ∧ 1 ≤ s.count.val) →
      ∀ u, memWrite s.target.toNat s.pending s = .next u → exec (.err k) s = .next { u with
        phase := .idle, count := 0, pending := 0, rxArmed := false, outputs := u.outputs ++ [.reqListen] })

/-- R148: the no-acknowledge salvage stores the partial write through the whole access policy, the callback and the
replies to its handler's own reads (log 13) before REQ_LISTEN; with no data byte nothing is written and no callback fires. The whole next state where handlers return. -/
def Obligations.NackSalvagesPartialWrite : Prop :=
  ∀ s : State, s.mode = .run → s.phase = .data → s.params.callbackMayHang = false →
    let reg' := if s.target.toNat < s.params.regCount ∧ isReadOnly s s.target.toNat = false then
      s.reg.set s.target.toNat s.pending else s.reg
    (1 ≤ s.count.val → s.count.val ≤ 3 → exec (.err 0x01) s = .next { s with
      reg := reg', phase := .idle, count := 0, pending := 0, rxArmed := false
      outputs := s.outputs ++
        (if s.target.toNat < s.params.regCount ∧ handlerOf s s.target.toNat ≠ 0 then
          .callback s.target.toNat (handlerOf s s.target.toNat) :: handlerReplies { s with reg := reg' } else []) ++
        [.reqListen] }) ∧
    (s.count = 0 → exec (.err 0x01) s = .next { s with
      phase := .idle, count := 0, pending := 0, rxArmed := false, outputs := s.outputs ++ [.reqListen] })

/-- R149, R153: an error of the other class writes no register and fires no callback, whatever the phase and count. -/
def Obligations.OtherErrorsNeverWrite : Prop :=
  ∀ (k : Byte) (s : State), s.mode = .run → k ≠ 0x01 →
    exec (.err k) s = .next { s with
      phase := .idle, count := 0, pending := 0, rxArmed := false, outputs := s.outputs ++ [.reqListen] }

/-- R150. -/
def Obligations.ListenOnlyRearms : Prop :=
  ∀ s : State,
    (s.mode = .config → exec .listen s = .next { s with
      refused := true, refuseCode := 0x03, refuseWord := 0x0300000000000000 }) ∧
    (s.mode = .run → exec .listen s = .next { s with
      rxArmed := false, outputs := s.outputs ++ [.reqListen] })

/-! ### Host events -/

/-- R180, R113: SETRO in CONFIG stores the value and sets the flag of an in-bounds register, changes nothing for any
other index, and is refused in RUN. -/
def Obligations.SetroMakesRegisterReadOnly : Prop :=
  ∀ (i : Index) (v : Word) (s : State),
    (s.mode = .config → i.toNat < s.params.regCount → exec (.setro i v) s = .next { s with
      reg := s.reg.set i.toNat v, ro := s.ro.set i.toNat true }) ∧
    (s.mode = .config → s.params.regCount ≤ i.toNat → exec (.setro i v) s = .next s) ∧
    (s.mode = .run → exec (.setro i v) s = .next { s with
      refused := true, refuseCode := 0x04, refuseWord := encode (.setro i v) })

/-- R181, R114: SETCB in CONFIG replaces the handler of an in-bounds register, changes nothing for any other index, and
is refused in RUN. -/
def Obligations.SetcbReplacesHandler : Prop :=
  ∀ (i : Index) (h : Word) (s : State),
    (s.mode = .config → i.toNat < s.params.regCount →
      exec (.setcb i h) s = .next { s with cb := s.cb.set i.toNat h }) ∧
    (s.mode = .config → s.params.regCount ≤ i.toNat → exec (.setcb i h) s = .next s) ∧
    (s.mode = .run → exec (.setcb i h) s = .next { s with
      refused := true, refuseCode := 0x04, refuseWord := encode (.setcb i h) })

/-- R183: ENABLE enters RUN and arms listening, once; no event leaves RUN; the transaction context is still at its reset
value (in every state that meets the invariants of R35). -/
def Obligations.EnableEntersRun : Prop :=
  ∀ s : State,
    (s.mode = .config → exec .enable s = .next { s with
      mode := .run, outputs := s.outputs ++ [.reqListen] }) ∧
    (s.mode = .run → exec .enable s = .next { s with
      refused := true, refuseCode := 0x04, refuseWord := 0x1200000000000000 }) ∧
    (s.mode = .run → ∀ i t, exec i s = .next t → t.mode = .run) ∧
    (s.Inv → s.mode = .config → ∀ t, exec .enable s = .next t →
      t.phase = .idle ∧ t.target = 0 ∧ t.count = 0 ∧ t.pending = 0 ∧ t.rxArmed = false)

/-- R185: the atomic application read, in both modes: one APP_DATA, nothing else changes. -/
def Obligations.ApplicationReadReplies : Prop :=
  ∀ (i : Index) (s : State), (s.params.tornReads = false ∨ s.concurrent = false) →
    exec (.aread i) s = .next { s with outputs := s.outputs ++ [.appData (memRead s i.toNat)] }

/-- 20_memory.md section 4: a read the host declared concurrent with the next step is answered after that step's own
outputs, and each byte lane of the reply is that lane of the register before or after the step, as some draw says.
The declaration and the waiting are the model's own (log 6); so is the reply where the event is refused (log 7), for the
event ranges over refused ones too; the draw is a free value (log 9), and the statement holds whatever it is. -/
def Obligations.TornReadMixesLanesAcrossStep : Prop :=
  ∀ (s t : State) (i : Index) (x : Instr) (reads : List Index),
    s.Ready → s.params.tornReads = true → exec x { s with torn := [i], handlerReads := reads } = .next t →
    ∃ (v : Word) (mask : BitVec 4),
      runFrom s [{ word := encode (.aread i), concurrent := true }, { word := encode x, handlerReads := reads }] =
        { t with torn := [], handlerReads := [], outputs := t.outputs ++ [.appData v], draws := t.draws + 1 } ∧
      ∀ k, k ≤ 3 → lane v k =
        if mask.getLsbD k then lane (memRead t i.toNat) k else lane (memRead s i.toNat) k

/-! ### Register table and access policy -/

/-- R111. -/
def Obligations.MemReadAnswersRegisterOrSentinel : Prop :=
  ∀ (s : State) (i : Nat),
    (Memory.wf s → i < s.params.regCount → s.reg[i]? = some (memRead s i)) ∧
    (s.params.regCount ≤ i → memRead s i = 0xFFFFFFFF)

/-- R112, R115: MemWrite where handlers return, case by case, and the Boolean it returns. (Where the host declares no
handler reads; with them it is `Obligations.MemWriteServesHandlerReads`.) -/
def Obligations.MemWriteFollowsAccessPolicy : Prop :=
  ∀ (s : State) (i : Nat) (v : Word), s.params.callbackMayHang = false → s.handlerReads = [] →
    (s.params.regCount ≤ i → memWrite i v s = .next s ∧ memWriteReached s i = false) ∧
    (i < s.params.regCount → memWriteReached s i = true) ∧
    (i < s.params.regCount → isReadOnly s i = false → handlerOf s i = 0 →
      memWrite i v s = .next { s with reg := s.reg.set i v }) ∧
    (i < s.params.regCount → isReadOnly s i = false → handlerOf s i ≠ 0 →
      memWrite i v s = .next { s with
        reg := s.reg.set i v, outputs := s.outputs ++ [.callback i (handlerOf s i)] }) ∧
    (i < s.params.regCount → isReadOnly s i = true → handlerOf s i = 0 → memWrite i v s = .next s) ∧
    (i < s.params.regCount → isReadOnly s i = true → handlerOf s i ≠ 0 →
      memWrite i v s = .next { s with outputs := s.outputs ++ [.callback i (handlerOf s i)] })

/-- 40_register_table.md sections 3 and 5: MemWrite where handlers return, for every declared list of handler reads: the
store, then the callback of a register with a handler and the replies to its reads, taken from the state after the
store. That the host declares the reads on the event, and that the replies stand right after the CALLBACK record, is the
model's choice (log 13). -/
def Obligations.MemWriteServesHandlerReads : Prop :=
  ∀ (s : State) (i : Nat) (v : Word), s.params.callbackMayHang = false → Memory.wf s →
    let stored := i < s.params.regCount ∧ isReadOnly s i = false
    memWrite i v s = .next { s with
      reg := if stored then s.reg.set i v else s.reg
      outputs := s.outputs ++
        (if i < s.params.regCount ∧ handlerOf s i ≠ 0 then
          .callback i (handlerOf s i) ::
            s.handlerReads.map (fun j => .appData (if j.toNat = i ∧ stored then v else memRead s j.toNat)) else []) }

/-- 40_register_table.md section 5, 20_memory.md section 6: the reads of the handler that a fourth data byte or a
no-acknowledge salvage invokes are answered inside that step, after the store and before any later record of the step
(on ERR, before REQ_LISTEN), and change nothing (the declaration and the place right after CALLBACK: log 13). The whole
state after the step. -/
def Obligations.HandlerReadsSeeTheStore : Prop :=
  ∀ (s : State) (reads : List Index), s.Ready → Memory.wf s → s.mode = .run → s.phase = .data →
    s.params.callbackMayHang = false → s.target.toNat < s.params.regCount → handlerOf s s.target.toNat ≠ 0 →
    let records (v : Word) : List Output := .callback s.target.toNat (handlerOf s s.target.toNat) ::
      reads.map (fun j => .appData
        (if j.toNat = s.target.toNat ∧ isReadOnly s s.target.toNat = false then v else memRead s j.toNat))
    (∀ b : Byte, s.rxArmed = true → s.count = 3 →
      runFrom s [{ word := encode (.rxc b), handlerReads := reads }] = { s with
        reg := tableAfterWrite s s.target.toNat (s.pending ||| b.setWidth 32 <<< 24)
        phase := .idle, count := 0, pending := 0, rxArmed := false
        outputs := s.outputs ++ records (s.pending ||| b.setWidth 32 <<< 24) }) ∧
    (1 ≤ s.count.val → s.count.val ≤ 3 →
      runFrom s [{ word := encode (.err 0x01), handlerReads := reads }] = { s with
        reg := tableAfterWrite s s.target.toNat s.pending
        phase := .idle, count := 0, pending := 0, rxArmed := false
        outputs := s.outputs ++ records s.pending ++ [.reqListen] })

/-- 40_register_table.md section 5: with CALLBACK_MAY_HANG true, at a CALLBACK record the instance either goes on or
takes no further step, as a free value says; so do the fourth data byte and the no-acknowledge salvage of a register
with a handler. The fault `handlerHung`, with no half-done state shown, the draw counter and the handler's replies are
the model's own (logs 8, 9, 13). -/
def Obligations.HangingHandlerStopsTheStep : Prop :=
  ∀ (s : State) (i : Nat) (v : Word), s.params.callbackMayHang = true →
    (i < s.params.regCount → handlerOf s i ≠ 0 →
      memWrite i v s =
        if Config.freeHang s.draws = true then .fault .handlerHung
        else .next { s with
          reg := tableAfterWrite s i v, outputs := s.outputs ++ memWriteRecords s i v, draws := s.draws + 1 }) ∧
    (i < s.params.regCount → handlerOf s i = 0 →
      memWrite i v s = .next { s with reg := if isReadOnly s i = true then s.reg else s.reg.set i v }) ∧
    (s.params.regCount ≤ i → memWrite i v s = .next s) ∧
    (i = s.target.toNat → i < s.params.regCount → handlerOf s i ≠ 0 → s.mode = .run → s.phase = .data →
      (∀ b : Byte, s.rxArmed = true → s.count = 3 → v = s.pending ||| b.setWidth 32 <<< 24 → exec (.rxc b) s =
        if Config.freeHang s.draws = true then .fault .handlerHung
        else .next { s with
          reg := tableAfterWrite s i v, phase := .idle, count := 0, pending := 0, rxArmed := false
          outputs := s.outputs ++ memWriteRecords s i v, draws := s.draws + 1 }) ∧
      (1 ≤ s.count.val → s.count.val ≤ 3 → v = s.pending → exec (.err 0x01) s =
        if Config.freeHang s.draws = true then .fault .handlerHung
        else .next { s with
          reg := tableAfterWrite s i v, phase := .idle, count := 0, pending := 0, rxArmed := false
          outputs := s.outputs ++ memWriteRecords s i v ++ [.reqListen], draws := s.draws + 1 }))

/-- R23: the flags as one mask. -/
def Obligations.ReadOnlyMaskHoldsFlags : Prop :=
  ∀ (s : State) (i : Nat), i < s.params.regCount → Memory.wf s → (roMask s).getLsbD i = isReadOnly s i

/-! ### Frames over all events -/

/-- 40_register_table.md section 6 (R119) and R21: an event stores to at most the register `storeOf` computes with the
expressions its meaning uses, that register then reads as the value stored, and every other index reads as before. -/
def Obligations.EventsStoreOnlyWhereThePolicySays : Prop :=
  ∀ (i : Instr) (s t : State), exec i s = .next t →
    (∀ a v, storeOf i s = some (a, v) →
      (Memory.wf s → memRead t a = v) ∧ ∀ j, j ≠ a → memRead t j = memRead s j) ∧
    (storeOf i s = none → ∀ j, memRead t j = memRead s j)

/-- R22: only SETRO sets a read-only flag and no event clears one. -/
def Obligations.OnlySetroSetsReadOnlyFlags : Prop :=
  ∀ (i : Instr) (s t : State) (j : Nat), exec i s = .next t →
    (isReadOnly s j = true → isReadOnly t j = true) ∧
    (isReadOnly s j = false → isReadOnly t j = true →
      ∃ (r : Index) (v : Word), i = .setro r v ∧ r.toNat = j ∧ s.mode = .config) ∧
    t.ro.length = s.ro.length

/-- R24: only SETCB writes the callback table, and only its own slot. -/
def Obligations.OnlySetcbWritesHandlers : Prop :=
  ∀ (i : Instr) (s t : State) (j : Nat), exec i s = .next t → handlerOf t j ≠ handlerOf s j →
    ∃ (r : Index) (h : Word), i = .setcb r h ∧ r.toNat = j ∧ s.mode = .config ∧ handlerOf t j = h

/-- R32: `target` is written only by RXC in AddressPhase, with the received byte. -/
def Obligations.OnlyIndexByteWritesTarget : Prop :=
  ∀ (i : Instr) (s t : State), exec i s = .next t →
    (t.target ≠ s.target →
      ∃ b, i = .rxc b ∧ s.mode = .run ∧ s.rxArmed = true ∧ s.phase = .address ∧ t.target = b) ∧
    (∀ b, i = .rxc b → s.mode = .run → s.rxArmed = true → s.phase = .address → t.target = b)

/-- R37: only ENABLE changes the mode, from CONFIG to RUN; nothing leaves RUN. No event changes the parameters, the
deliveries or what the host declares on the one being processed. -/
def Obligations.OnlyEnableChangesMode : Prop :=
  ∀ (i : Instr) (s t : State), exec i s = .next t →
    (t.mode ≠ s.mode → i = .enable ∧ s.mode = .config ∧ t.mode = .run) ∧
    t.params = s.params ∧ t.inbox = s.inbox ∧ t.concurrent = s.concurrent ∧
      t.handlerReads = s.handlerReads

/-- 40_register_table.md section 5 (R117): an event only appends records, and a CALLBACK record among them comes from a
MemWrite of that event, for an in-bounds register with that handler. -/
def Obligations.CallbacksComeOnlyFromMemWrite : Prop :=
  ∀ (i : Instr) (s t : State), exec i s = .next t →
    ∃ new, t.outputs = s.outputs ++ new ∧
      ∀ j h, Output.callback j h ∈ new →
        (∃ v, memWriteOf i s = some (j, v)) ∧ j < s.params.regCount ∧ h = handlerOf s j ∧ h ≠ 0

/-- R25, R41: what ADDR.R transmits and AREAD replies depends on the register read and nothing else: not on the
read-only flags, the callbacks, the phase, the count or the pending value. -/
def Obligations.ReadsSeeOnlyRegisters : Prop :=
  (∀ s t s' t' : State, s.mode = .run → t.mode = .run →
    memRead s s.target.toNat = memRead t t.target.toNat →
    exec .addrR s = .next s' → exec .addrR t = .next t' →
    ∃ o, s'.outputs = s.outputs ++ [o] ∧ t'.outputs = t.outputs ++ [o]) ∧
  (∀ (i : Index) (s t s' t' : State), readsTorn s = false → readsTorn t = false →
    memRead s i.toNat = memRead t i.toNat →
    exec (.aread i) s = .next s' → exec (.aread i) t = .next t' →
    ∃ o, s'.outputs = s.outputs ++ [o] ∧ t'.outputs = t.outputs ++ [o])

/-! ### Invariants and whole runs -/

/-- The invariants of `State.Inv` hold after reset, for every legal parameter choice. -/
def Obligations.ResetMeetsInvariants : Prop :=
  ∀ p : Params, p.legal → (State.resetWith p).Inv

/-- R35: the invariants hold after every step that starts from a state in which they hold, reachable or not. -/
def Obligations.EveryStepKeepsInvariants : Prop :=
  ∀ s t : State, s.Inv → step s = .next t → t.Inv

/-- 95_test_vectors.md S1 (the source's property) and R112: from any state in RUN, no sequence of deliveries changes a
read-only register or clears its flag. -/
def Obligations.ReadOnlyRegistersNeverChangeInRun : Prop :=
  ∀ (s : State) (ds : List Delivery) (i : Nat), s.mode = .run → isReadOnly s i = true →
    memRead (runFrom s ds) i = memRead s i ∧ isReadOnly (runFrom s ds) i = true

/-- 42_setup_and_host.md sections 2 and 3 (R184, R186), 60_exceptions.md section 4: from any state in RUN, no sequence of
deliveries changes the read-only flags, the handlers, the mode or the parameters. -/
def Obligations.ConfigurationIsFrozenInRun : Prop :=
  ∀ (s : State) (ds : List Delivery), s.mode = .run →
    (runFrom s ds).ro = s.ro ∧ (runFrom s ds).cb = s.cb ∧ (runFrom s ds).mode = .run ∧
      (runFrom s ds).params = s.params

/-- 20_memory.md section 6: after any deliveries, a register holds what the last MemWrite or SETRO to it left, in event order, or what it
held before if there was none (all zero after reset); a bus read and an atomic AREAD return that value.
Where a handler hangs, the final state and the stores are those before the hung step, whose own store is left out of
both; that is the model's choice (log 8). -/
def Obligations.ReadsAnswerTheLastStore : Prop :=
  ∀ (s : State) (ds : List Delivery) (i : Nat), Memory.wf s → s.inbox = [] → i < s.params.regCount →
    let u := runFrom s ds
    let v := lastStored i (memRead s i) (runStores s ds)
    memRead u i = v ∧
    (u.mode = .run → u.target.toNat = i → exec .addrR u = .next { u with
      rxArmed := false, outputs := u.outputs ++ [.reqTx (lane v 0) (lane v 1) (lane v 2) (lane v 3)] }) ∧
    (∀ j : Index, j.toNat = i → readsTorn u = false →
      exec (.aread j) u = .next { u with outputs := u.outputs ++ [.appData v] }) ∧
    memRead (State.resetWith s.params) i = 0

/-- R38, R217: a refusal is never taken back, so every prefix of a good run is good. (Where a handler hangs, "good" is
read off the state before the hung step, the model's choice, log 8.) -/
def Obligations.PrefixesOfGoodRunsAreGood : Prop :=
  ∀ (s : State) (ds es : List Delivery), (runFrom s (ds ++ es)).good = true → (runFrom s ds).good = true

/-- 60_exceptions.md section 6: a step of one instance leaves every other instance as it was, and what it does to its
own entry is `step` of that entry alone. The list of instances is the model's own form (log 14), and so is that all
instances take their free values from the same constants, each by its own counter (log 9). -/
def Obligations.StepOfOneInstanceKeepsTheOthers : Prop :=
  (∀ (k j : Nat) (m m' : List State), stepOne k m = .next m' → j ≠ k → m'[j]? = m[j]?) ∧
  (∀ (k : Nat) (m : List State) (s t : State), m[k]? = some s → step s = .next t →
    ∃ m', stepOne k m = .next m' ∧ m'[k]? = some t)

/-! ### Whole transactions, from any state in RUN (41_transaction.md section 6) -/

/-- A full write: the whole state after it. -/
def Obligations.FullWriteTransaction : Prop :=
  ∀ (s : State) (i d0 d1 d2 d3 : Byte),
    s.Ready → s.mode = .run → s.params.callbackMayHang = false →
    runEvents s [.addrW, .rxc i, .rxc d0, .rxc d1, .rxc d2, .rxc d3] = { s with
      reg := tableAfterWrite s i.toNat (fromLanes d0 d1 d2 d3)
      phase := .idle, target := i, count := 0, pending := 0, rxArmed := false
      outputs := s.outputs ++
        [.reqRx .target .first, .reqRx .lane0 .next, .reqRx .lane1 .next, .reqRx .lane2 .next,
          .reqRx .lane3 .last] ++ memWriteRecords s i.toNat (fromLanes d0 d1 d2 d3) }

/-- R64: a short write of one to three bytes ended by a no-acknowledge error stores all 32 bits, zero in the lanes not
received: the whole state after it. -/
def Obligations.ShortWriteTransaction : Prop :=
  ∀ (s : State) (i : Byte) (bytes : List Byte),
    s.Ready → s.mode = .run → s.params.callbackMayHang = false → 1 ≤ bytes.length → bytes.length ≤ 3 →
    runEvents s ([.addrW, .rxc i] ++ bytes.map Instr.rxc ++ [.err 0x01]) = { s with
      reg := tableAfterWrite s i.toNat (shortValue bytes)
      phase := .idle, target := i, count := 0, pending := 0, rxArmed := false
      outputs := s.outputs ++ [.reqRx .target .first, .reqRx .lane0 .next] ++
        (List.range bytes.length).map (fun k => .reqRx (laneDest (k + 1)) (laneFrame (k + 1))) ++
        memWriteRecords s i.toNat (shortValue bytes) ++ [.reqListen] }

/-- 30_encoding.md section 1 (R82): a write ended after at most three data bytes by an error of the other class or by a
new write address match, or with no data byte by any error, stores nothing and fires no callback; `target` is set. -/
def Obligations.AbandonedWriteStoresNothing : Prop :=
  ∀ (s : State) (i : Byte) (bytes : List Byte) (e : Instr),
    s.Ready → s.mode = .run → bytes.length ≤ 3 →
    (e = .addrW ∨ (∃ k, k ≠ 0x01 ∧ e = .err k) ∨ (bytes = [] ∧ ∃ k, e = .err k)) →
    let u := runEvents s ([.addrW, .rxc i] ++ bytes.map Instr.rxc ++ [e])
    u.reg = s.reg ∧ u.target = i ∧ u.count = 0 ∧ u.pending = 0 ∧ u.refused = false ∧
      ∃ new, u.outputs = s.outputs ++ new ∧ ∀ j h, Output.callback j h ∉ new

/-- A register read: index byte, then the read address match; the whole state after it. -/
def Obligations.PointerThenReadTransmits : Prop :=
  ∀ (s : State) (i : Byte), s.Ready → s.mode = .run →
    runEvents s [.addrW, .rxc i, .addrR] = { s with
      phase := .data, target := i, count := 0, pending := 0, rxArmed := false
      outputs := s.outputs ++ [.reqRx .target .first, .reqRx .lane0 .next,
        .reqTx (lane (memRead s i.toNat) 0) (lane (memRead s i.toNat) 1) (lane (memRead s i.toNat) 2)
          (lane (memRead s i.toNat) 3)] }

/-- A read in the middle of a write sends the old value, and a no-acknowledge error after it still salvages the partial
write (41_transaction.md section 6, R154). -/
def Obligations.ReadInsideWriteThenNackSalvages : Prop :=
  ∀ (s : State) (i d0 : Byte), s.Ready → s.mode = .run → s.params.callbackMayHang = false →
    runEvents s [.addrW, .rxc i, .rxc d0, .addrR, .err 0x01] = { s with
      reg := tableAfterWrite s i.toNat (d0.setWidth 32)
      phase := .idle, target := i, count := 0, pending := 0, rxArmed := false
      outputs := s.outputs ++ [.reqRx .target .first, .reqRx .lane0 .next, .reqRx .lane1 .next,
        .reqTx (lane (memRead s i.toNat) 0) (lane (memRead s i.toNat) 1) (lane (memRead s i.toNat) 2)
          (lane (memRead s i.toNat) 3)] ++ memWriteRecords s i.toNat (d0.setWidth 32) ++ [.reqListen] }

/-- A listen-complete keeps a partial write, and a later no-acknowledge error still salvages it through the whole access
policy (41_transaction.md section 5): the whole state after it. -/
def Obligations.ListenKeepsPartialWriteForSalvage : Prop :=
  ∀ (s : State) (i : Byte) (bytes : List Byte),
    s.Ready → s.mode = .run → s.params.callbackMayHang = false → 1 ≤ bytes.length → bytes.length ≤ 3 →
    runEvents s ([.addrW, .rxc i] ++ bytes.map Instr.rxc ++ [.listen, .err 0x01]) = { s with
      reg := tableAfterWrite s i.toNat (shortValue bytes)
      phase := .idle, target := i, count := 0, pending := 0, rxArmed := false
      outputs := s.outputs ++ [.reqRx .target .first, .reqRx .lane0 .next] ++
        (List.range bytes.length).map (fun k => .reqRx (laneDest (k + 1)) (laneFrame (k + 1))) ++ [.reqListen] ++
        memWriteRecords s i.toNat (shortValue bytes) ++ [.reqListen] }

/-- A fifth data byte after a full write is refused with RF_RX_UNARMED and changes no register (41_transaction.md
section 6, R152). -/
def Obligations.FifthByteIsRefused : Prop :=
  ∀ (s : State) (i d0 d1 d2 d3 b : Byte),
    s.Ready → s.mode = .run → s.params.callbackMayHang = false →
    let u := runEvents s [.addrW, .rxc i, .rxc d0, .rxc d1, .rxc d2, .rxc d3, .rxc b]
    u.refused = true ∧ u.refuseCode = 0x02 ∧ u.refuseWord = encode (.rxc b) ∧ u.target = i ∧
      u.reg = tableAfterWrite s i.toNat (fromLanes d0 d1 d2 d3)

/-! ### Assembler -/

/-- The words of an assembled program decode to the events its lines stand for (30_encoding.md section 5). -/
def Obligations.AssembledWordsDecodeToTheirEvents : Prop :=
  ∀ (lines : List Asm) (ws : List EventWord), assemble lines = some ws →
    ws.map decode = (lines.flatMap expand).map Decoded.event

/-- `WRITE32 i, v` writes the value `v`, whole, to register `i` through the access policy (30_encoding.md section 5):
the whole state after it. -/
def Obligations.Write32WritesItsValue : Prop :=
  ∀ (s : State) (i v : Nat), s.Ready → s.mode = .run → s.params.callbackMayHang = false →
    (Asm.write32 i v).wf = true →
    runEvents s (expand (.write32 i v)) = { s with
      reg := tableAfterWrite s i (BitVec.ofNat 32 v)
      phase := .idle, target := BitVec.ofNat 8 i, count := 0, pending := 0, rxArmed := false
      outputs := s.outputs ++
        [.reqRx .target .first, .reqRx .lane0 .next, .reqRx .lane1 .next, .reqRx .lane2 .next,
          .reqRx .lane3 .last] ++ memWriteRecords s i (BitVec.ofNat 32 v) ++ [.reqListen] }
end

