-- ==== Sys2Proof/Laws/Decode.lean ====
section
/-! SUPPORT. The fields of a packed word, and a word from its fields (30_encoding.md R84). -/

namespace Sys2Proof

theorem fieldOp_pack (op b : Byte) (idx : Index) (v : Word) : fieldOp (pack op b idx v) = op := by
  ext i hi
  interval_cases i <;> simp [fieldOp, pack]

theorem fieldB_pack (op b : Byte) (idx : Index) (v : Word) : fieldB (pack op b idx v) = b := by
  ext i hi
  interval_cases i <;> simp [fieldB, pack]

theorem fieldIdx_pack (op b : Byte) (idx : Index) (v : Word) : fieldIdx (pack op b idx v) = idx := by
  ext i hi
  interval_cases i <;> simp [fieldIdx, pack]

theorem fieldV_pack (op b : Byte) (idx : Index) (v : Word) : fieldV (pack op b idx v) = v := by
  ext i hi
  interval_cases i <;> simp [fieldV, pack]

/-- The four fields of a word are all of it. -/
theorem pack_fields (w : EventWord) : pack (fieldOp w) (fieldB w) (fieldIdx w) (fieldV w) = w := by
  ext i hi
  interval_cases i <;> simp [fieldOp, fieldB, fieldIdx, fieldV, pack]

end Sys2Proof
end

