-- ==== Sys2Proof/Laws/State.lean ====
section
/-! SUPPORT. One lemma per field per field write of Machine/Fields.lean, and the fields of the reset state
(10_state.md R42). -/

namespace Sys2Proof.Machine

variable (s : State)

/-! ### `State.setReg` -/

@[simp] theorem State.setReg_params (i : Nat) (v : Word) : (s.setReg i v).params = s.params := rfl
@[simp] theorem State.setReg_reg (i : Nat) (v : Word) : (s.setReg i v).reg = s.reg.set i v := rfl
@[simp] theorem State.setReg_ro (i : Nat) (v : Word) : (s.setReg i v).ro = s.ro := rfl
@[simp] theorem State.setReg_cb (i : Nat) (v : Word) : (s.setReg i v).cb = s.cb := rfl
@[simp] theorem State.setReg_phase (i : Nat) (v : Word) : (s.setReg i v).phase = s.phase := rfl
@[simp] theorem State.setReg_target (i : Nat) (v : Word) : (s.setReg i v).target = s.target := rfl
@[simp] theorem State.setReg_count (i : Nat) (v : Word) : (s.setReg i v).count = s.count := rfl
@[simp] theorem State.setReg_pending (i : Nat) (v : Word) : (s.setReg i v).pending = s.pending := rfl
@[simp] theorem State.setReg_rxArmed (i : Nat) (v : Word) : (s.setReg i v).rxArmed = s.rxArmed := rfl
@[simp] theorem State.setReg_mode (i : Nat) (v : Word) : (s.setReg i v).mode = s.mode := rfl
@[simp] theorem State.setReg_refused (i : Nat) (v : Word) : (s.setReg i v).refused = s.refused := rfl
@[simp] theorem State.setReg_refuseCode (i : Nat) (v : Word) : (s.setReg i v).refuseCode = s.refuseCode := rfl
@[simp] theorem State.setReg_refuseWord (i : Nat) (v : Word) : (s.setReg i v).refuseWord = s.refuseWord := rfl
@[simp] theorem State.setReg_inbox (i : Nat) (v : Word) : (s.setReg i v).inbox = s.inbox := rfl
@[simp] theorem State.setReg_concurrent (i : Nat) (v : Word) : (s.setReg i v).concurrent = s.concurrent := rfl
@[simp] theorem State.setReg_handlerReads (i : Nat) (v : Word) : (s.setReg i v).handlerReads = s.handlerReads := rfl
@[simp] theorem State.setReg_torn (i : Nat) (v : Word) : (s.setReg i v).torn = s.torn := rfl
@[simp] theorem State.setReg_outputs (i : Nat) (v : Word) : (s.setReg i v).outputs = s.outputs := rfl
@[simp] theorem State.setReg_draws (i : Nat) (v : Word) : (s.setReg i v).draws = s.draws := rfl

/-! ### `State.setRo` -/

@[simp] theorem State.setRo_params (i : Nat) : (s.setRo i).params = s.params := rfl
@[simp] theorem State.setRo_reg (i : Nat) : (s.setRo i).reg = s.reg := rfl
@[simp] theorem State.setRo_ro (i : Nat) : (s.setRo i).ro = s.ro.set i true := rfl
@[simp] theorem State.setRo_cb (i : Nat) : (s.setRo i).cb = s.cb := rfl
@[simp] theorem State.setRo_phase (i : Nat) : (s.setRo i).phase = s.phase := rfl
@[simp] theorem State.setRo_target (i : Nat) : (s.setRo i).target = s.target := rfl
@[simp] theorem State.setRo_count (i : Nat) : (s.setRo i).count = s.count := rfl
@[simp] theorem State.setRo_pending (i : Nat) : (s.setRo i).pending = s.pending := rfl
@[simp] theorem State.setRo_rxArmed (i : Nat) : (s.setRo i).rxArmed = s.rxArmed := rfl
@[simp] theorem State.setRo_mode (i : Nat) : (s.setRo i).mode = s.mode := rfl
@[simp] theorem State.setRo_refused (i : Nat) : (s.setRo i).refused = s.refused := rfl
@[simp] theorem State.setRo_refuseCode (i : Nat) : (s.setRo i).refuseCode = s.refuseCode := rfl
@[simp] theorem State.setRo_refuseWord (i : Nat) : (s.setRo i).refuseWord = s.refuseWord := rfl
@[simp] theorem State.setRo_inbox (i : Nat) : (s.setRo i).inbox = s.inbox := rfl
@[simp] theorem State.setRo_concurrent (i : Nat) : (s.setRo i).concurrent = s.concurrent := rfl
@[simp] theorem State.setRo_handlerReads (i : Nat) : (s.setRo i).handlerReads = s.handlerReads := rfl
@[simp] theorem State.setRo_torn (i : Nat) : (s.setRo i).torn = s.torn := rfl
@[simp] theorem State.setRo_outputs (i : Nat) : (s.setRo i).outputs = s.outputs := rfl
@[simp] theorem State.setRo_draws (i : Nat) : (s.setRo i).draws = s.draws := rfl

/-! ### `State.setCb` -/

@[simp] theorem State.setCb_params (i : Nat) (h : Word) : (s.setCb i h).params = s.params := rfl
@[simp] theorem State.setCb_reg (i : Nat) (h : Word) : (s.setCb i h).reg = s.reg := rfl
@[simp] theorem State.setCb_ro (i : Nat) (h : Word) : (s.setCb i h).ro = s.ro := rfl
@[simp] theorem State.setCb_cb (i : Nat) (h : Word) : (s.setCb i h).cb = s.cb.set i h := rfl
@[simp] theorem State.setCb_phase (i : Nat) (h : Word) : (s.setCb i h).phase = s.phase := rfl
@[simp] theorem State.setCb_target (i : Nat) (h : Word) : (s.setCb i h).target = s.target := rfl
@[simp] theorem State.setCb_count (i : Nat) (h : Word) : (s.setCb i h).count = s.count := rfl
@[simp] theorem State.setCb_pending (i : Nat) (h : Word) : (s.setCb i h).pending = s.pending := rfl
@[simp] theorem State.setCb_rxArmed (i : Nat) (h : Word) : (s.setCb i h).rxArmed = s.rxArmed := rfl
@[simp] theorem State.setCb_mode (i : Nat) (h : Word) : (s.setCb i h).mode = s.mode := rfl
@[simp] theorem State.setCb_refused (i : Nat) (h : Word) : (s.setCb i h).refused = s.refused := rfl
@[simp] theorem State.setCb_refuseCode (i : Nat) (h : Word) : (s.setCb i h).refuseCode = s.refuseCode := rfl
@[simp] theorem State.setCb_refuseWord (i : Nat) (h : Word) : (s.setCb i h).refuseWord = s.refuseWord := rfl
@[simp] theorem State.setCb_inbox (i : Nat) (h : Word) : (s.setCb i h).inbox = s.inbox := rfl
@[simp] theorem State.setCb_concurrent (i : Nat) (h : Word) : (s.setCb i h).concurrent = s.concurrent := rfl
@[simp] theorem State.setCb_handlerReads (i : Nat) (h : Word) : (s.setCb i h).handlerReads = s.handlerReads := rfl
@[simp] theorem State.setCb_torn (i : Nat) (h : Word) : (s.setCb i h).torn = s.torn := rfl
@[simp] theorem State.setCb_outputs (i : Nat) (h : Word) : (s.setCb i h).outputs = s.outputs := rfl
@[simp] theorem State.setCb_draws (i : Nat) (h : Word) : (s.setCb i h).draws = s.draws := rfl

/-! ### `State.setPhase` -/

@[simp] theorem State.setPhase_params (p : Phase) : (s.setPhase p).params = s.params := rfl
@[simp] theorem State.setPhase_reg (p : Phase) : (s.setPhase p).reg = s.reg := rfl
@[simp] theorem State.setPhase_ro (p : Phase) : (s.setPhase p).ro = s.ro := rfl
@[simp] theorem State.setPhase_cb (p : Phase) : (s.setPhase p).cb = s.cb := rfl
@[simp] theorem State.setPhase_phase (p : Phase) : (s.setPhase p).phase = p := rfl
@[simp] theorem State.setPhase_target (p : Phase) : (s.setPhase p).target = s.target := rfl
@[simp] theorem State.setPhase_count (p : Phase) : (s.setPhase p).count = s.count := rfl
@[simp] theorem State.setPhase_pending (p : Phase) : (s.setPhase p).pending = s.pending := rfl
@[simp] theorem State.setPhase_rxArmed (p : Phase) : (s.setPhase p).rxArmed = s.rxArmed := rfl
@[simp] theorem State.setPhase_mode (p : Phase) : (s.setPhase p).mode = s.mode := rfl
@[simp] theorem State.setPhase_refused (p : Phase) : (s.setPhase p).refused = s.refused := rfl
@[simp] theorem State.setPhase_refuseCode (p : Phase) : (s.setPhase p).refuseCode = s.refuseCode := rfl
@[simp] theorem State.setPhase_refuseWord (p : Phase) : (s.setPhase p).refuseWord = s.refuseWord := rfl
@[simp] theorem State.setPhase_inbox (p : Phase) : (s.setPhase p).inbox = s.inbox := rfl
@[simp] theorem State.setPhase_concurrent (p : Phase) : (s.setPhase p).concurrent = s.concurrent := rfl
@[simp] theorem State.setPhase_handlerReads (p : Phase) : (s.setPhase p).handlerReads = s.handlerReads := rfl
@[simp] theorem State.setPhase_torn (p : Phase) : (s.setPhase p).torn = s.torn := rfl
@[simp] theorem State.setPhase_outputs (p : Phase) : (s.setPhase p).outputs = s.outputs := rfl
@[simp] theorem State.setPhase_draws (p : Phase) : (s.setPhase p).draws = s.draws := rfl

/-! ### `State.setTarget` -/

@[simp] theorem State.setTarget_params (b : Byte) : (s.setTarget b).params = s.params := rfl
@[simp] theorem State.setTarget_reg (b : Byte) : (s.setTarget b).reg = s.reg := rfl
@[simp] theorem State.setTarget_ro (b : Byte) : (s.setTarget b).ro = s.ro := rfl
@[simp] theorem State.setTarget_cb (b : Byte) : (s.setTarget b).cb = s.cb := rfl
@[simp] theorem State.setTarget_phase (b : Byte) : (s.setTarget b).phase = s.phase := rfl
@[simp] theorem State.setTarget_target (b : Byte) : (s.setTarget b).target = b := rfl
@[simp] theorem State.setTarget_count (b : Byte) : (s.setTarget b).count = s.count := rfl
@[simp] theorem State.setTarget_pending (b : Byte) : (s.setTarget b).pending = s.pending := rfl
@[simp] theorem State.setTarget_rxArmed (b : Byte) : (s.setTarget b).rxArmed = s.rxArmed := rfl
@[simp] theorem State.setTarget_mode (b : Byte) : (s.setTarget b).mode = s.mode := rfl
@[simp] theorem State.setTarget_refused (b : Byte) : (s.setTarget b).refused = s.refused := rfl
@[simp] theorem State.setTarget_refuseCode (b : Byte) : (s.setTarget b).refuseCode = s.refuseCode := rfl
@[simp] theorem State.setTarget_refuseWord (b : Byte) : (s.setTarget b).refuseWord = s.refuseWord := rfl
@[simp] theorem State.setTarget_inbox (b : Byte) : (s.setTarget b).inbox = s.inbox := rfl
@[simp] theorem State.setTarget_concurrent (b : Byte) : (s.setTarget b).concurrent = s.concurrent := rfl
@[simp] theorem State.setTarget_handlerReads (b : Byte) : (s.setTarget b).handlerReads = s.handlerReads := rfl
@[simp] theorem State.setTarget_torn (b : Byte) : (s.setTarget b).torn = s.torn := rfl
@[simp] theorem State.setTarget_outputs (b : Byte) : (s.setTarget b).outputs = s.outputs := rfl
@[simp] theorem State.setTarget_draws (b : Byte) : (s.setTarget b).draws = s.draws := rfl

/-! ### `State.setCount` -/

@[simp] theorem State.setCount_params (n : Fin 5) : (s.setCount n).params = s.params := rfl
@[simp] theorem State.setCount_reg (n : Fin 5) : (s.setCount n).reg = s.reg := rfl
@[simp] theorem State.setCount_ro (n : Fin 5) : (s.setCount n).ro = s.ro := rfl
@[simp] theorem State.setCount_cb (n : Fin 5) : (s.setCount n).cb = s.cb := rfl
@[simp] theorem State.setCount_phase (n : Fin 5) : (s.setCount n).phase = s.phase := rfl
@[simp] theorem State.setCount_target (n : Fin 5) : (s.setCount n).target = s.target := rfl
@[simp] theorem State.setCount_count (n : Fin 5) : (s.setCount n).count = n := rfl
@[simp] theorem State.setCount_pending (n : Fin 5) : (s.setCount n).pending = s.pending := rfl
@[simp] theorem State.setCount_rxArmed (n : Fin 5) : (s.setCount n).rxArmed = s.rxArmed := rfl
@[simp] theorem State.setCount_mode (n : Fin 5) : (s.setCount n).mode = s.mode := rfl
@[simp] theorem State.setCount_refused (n : Fin 5) : (s.setCount n).refused = s.refused := rfl
@[simp] theorem State.setCount_refuseCode (n : Fin 5) : (s.setCount n).refuseCode = s.refuseCode := rfl
@[simp] theorem State.setCount_refuseWord (n : Fin 5) : (s.setCount n).refuseWord = s.refuseWord := rfl
@[simp] theorem State.setCount_inbox (n : Fin 5) : (s.setCount n).inbox = s.inbox := rfl
@[simp] theorem State.setCount_concurrent (n : Fin 5) : (s.setCount n).concurrent = s.concurrent := rfl
@[simp] theorem State.setCount_handlerReads (n : Fin 5) : (s.setCount n).handlerReads = s.handlerReads := rfl
@[simp] theorem State.setCount_torn (n : Fin 5) : (s.setCount n).torn = s.torn := rfl
@[simp] theorem State.setCount_outputs (n : Fin 5) : (s.setCount n).outputs = s.outputs := rfl
@[simp] theorem State.setCount_draws (n : Fin 5) : (s.setCount n).draws = s.draws := rfl

/-! ### `State.setPending` -/

@[simp] theorem State.setPending_params (v : Word) : (s.setPending v).params = s.params := rfl
@[simp] theorem State.setPending_reg (v : Word) : (s.setPending v).reg = s.reg := rfl
@[simp] theorem State.setPending_ro (v : Word) : (s.setPending v).ro = s.ro := rfl
@[simp] theorem State.setPending_cb (v : Word) : (s.setPending v).cb = s.cb := rfl
@[simp] theorem State.setPending_phase (v : Word) : (s.setPending v).phase = s.phase := rfl
@[simp] theorem State.setPending_target (v : Word) : (s.setPending v).target = s.target := rfl
@[simp] theorem State.setPending_count (v : Word) : (s.setPending v).count = s.count := rfl
@[simp] theorem State.setPending_pending (v : Word) : (s.setPending v).pending = v := rfl
@[simp] theorem State.setPending_rxArmed (v : Word) : (s.setPending v).rxArmed = s.rxArmed := rfl
@[simp] theorem State.setPending_mode (v : Word) : (s.setPending v).mode = s.mode := rfl
@[simp] theorem State.setPending_refused (v : Word) : (s.setPending v).refused = s.refused := rfl
@[simp] theorem State.setPending_refuseCode (v : Word) : (s.setPending v).refuseCode = s.refuseCode := rfl
@[simp] theorem State.setPending_refuseWord (v : Word) : (s.setPending v).refuseWord = s.refuseWord := rfl
@[simp] theorem State.setPending_inbox (v : Word) : (s.setPending v).inbox = s.inbox := rfl
@[simp] theorem State.setPending_concurrent (v : Word) : (s.setPending v).concurrent = s.concurrent := rfl
@[simp] theorem State.setPending_handlerReads (v : Word) : (s.setPending v).handlerReads = s.handlerReads := rfl
@[simp] theorem State.setPending_torn (v : Word) : (s.setPending v).torn = s.torn := rfl
@[simp] theorem State.setPending_outputs (v : Word) : (s.setPending v).outputs = s.outputs := rfl
@[simp] theorem State.setPending_draws (v : Word) : (s.setPending v).draws = s.draws := rfl

/-! ### `State.setRxArmed` -/

@[simp] theorem State.setRxArmed_params (b : Bool) : (s.setRxArmed b).params = s.params := rfl
@[simp] theorem State.setRxArmed_reg (b : Bool) : (s.setRxArmed b).reg = s.reg := rfl
@[simp] theorem State.setRxArmed_ro (b : Bool) : (s.setRxArmed b).ro = s.ro := rfl
@[simp] theorem State.setRxArmed_cb (b : Bool) : (s.setRxArmed b).cb = s.cb := rfl
@[simp] theorem State.setRxArmed_phase (b : Bool) : (s.setRxArmed b).phase = s.phase := rfl
@[simp] theorem State.setRxArmed_target (b : Bool) : (s.setRxArmed b).target = s.target := rfl
@[simp] theorem State.setRxArmed_count (b : Bool) : (s.setRxArmed b).count = s.count := rfl
@[simp] theorem State.setRxArmed_pending (b : Bool) : (s.setRxArmed b).pending = s.pending := rfl
@[simp] theorem State.setRxArmed_rxArmed (b : Bool) : (s.setRxArmed b).rxArmed = b := rfl
@[simp] theorem State.setRxArmed_mode (b : Bool) : (s.setRxArmed b).mode = s.mode := rfl
@[simp] theorem State.setRxArmed_refused (b : Bool) : (s.setRxArmed b).refused = s.refused := rfl
@[simp] theorem State.setRxArmed_refuseCode (b : Bool) : (s.setRxArmed b).refuseCode = s.refuseCode := rfl
@[simp] theorem State.setRxArmed_refuseWord (b : Bool) : (s.setRxArmed b).refuseWord = s.refuseWord := rfl
@[simp] theorem State.setRxArmed_inbox (b : Bool) : (s.setRxArmed b).inbox = s.inbox := rfl
@[simp] theorem State.setRxArmed_concurrent (b : Bool) : (s.setRxArmed b).concurrent = s.concurrent := rfl
@[simp] theorem State.setRxArmed_handlerReads (b : Bool) : (s.setRxArmed b).handlerReads = s.handlerReads := rfl
@[simp] theorem State.setRxArmed_torn (b : Bool) : (s.setRxArmed b).torn = s.torn := rfl
@[simp] theorem State.setRxArmed_outputs (b : Bool) : (s.setRxArmed b).outputs = s.outputs := rfl
@[simp] theorem State.setRxArmed_draws (b : Bool) : (s.setRxArmed b).draws = s.draws := rfl

/-! ### `State.setMode` -/

@[simp] theorem State.setMode_params (m : Mode) : (s.setMode m).params = s.params := rfl
@[simp] theorem State.setMode_reg (m : Mode) : (s.setMode m).reg = s.reg := rfl
@[simp] theorem State.setMode_ro (m : Mode) : (s.setMode m).ro = s.ro := rfl
@[simp] theorem State.setMode_cb (m : Mode) : (s.setMode m).cb = s.cb := rfl
@[simp] theorem State.setMode_phase (m : Mode) : (s.setMode m).phase = s.phase := rfl
@[simp] theorem State.setMode_target (m : Mode) : (s.setMode m).target = s.target := rfl
@[simp] theorem State.setMode_count (m : Mode) : (s.setMode m).count = s.count := rfl
@[simp] theorem State.setMode_pending (m : Mode) : (s.setMode m).pending = s.pending := rfl
@[simp] theorem State.setMode_rxArmed (m : Mode) : (s.setMode m).rxArmed = s.rxArmed := rfl
@[simp] theorem State.setMode_mode (m : Mode) : (s.setMode m).mode = m := rfl
@[simp] theorem State.setMode_refused (m : Mode) : (s.setMode m).refused = s.refused := rfl
@[simp] theorem State.setMode_refuseCode (m : Mode) : (s.setMode m).refuseCode = s.refuseCode := rfl
@[simp] theorem State.setMode_refuseWord (m : Mode) : (s.setMode m).refuseWord = s.refuseWord := rfl
@[simp] theorem State.setMode_inbox (m : Mode) : (s.setMode m).inbox = s.inbox := rfl
@[simp] theorem State.setMode_concurrent (m : Mode) : (s.setMode m).concurrent = s.concurrent := rfl
@[simp] theorem State.setMode_handlerReads (m : Mode) : (s.setMode m).handlerReads = s.handlerReads := rfl
@[simp] theorem State.setMode_torn (m : Mode) : (s.setMode m).torn = s.torn := rfl
@[simp] theorem State.setMode_outputs (m : Mode) : (s.setMode m).outputs = s.outputs := rfl
@[simp] theorem State.setMode_draws (m : Mode) : (s.setMode m).draws = s.draws := rfl

/-! ### `State.setRefusal` -/

@[simp] theorem State.setRefusal_params (c : BitVec 8) (w : EventWord) : (s.setRefusal c w).params = s.params := rfl
@[simp] theorem State.setRefusal_reg (c : BitVec 8) (w : EventWord) : (s.setRefusal c w).reg = s.reg := rfl
@[simp] theorem State.setRefusal_ro (c : BitVec 8) (w : EventWord) : (s.setRefusal c w).ro = s.ro := rfl
@[simp] theorem State.setRefusal_cb (c : BitVec 8) (w : EventWord) : (s.setRefusal c w).cb = s.cb := rfl
@[simp] theorem State.setRefusal_phase (c : BitVec 8) (w : EventWord) : (s.setRefusal c w).phase = s.phase := rfl
@[simp] theorem State.setRefusal_target (c : BitVec 8) (w : EventWord) : (s.setRefusal c w).target = s.target := rfl
@[simp] theorem State.setRefusal_count (c : BitVec 8) (w : EventWord) : (s.setRefusal c w).count = s.count := rfl
@[simp] theorem State.setRefusal_pending (c : BitVec 8) (w : EventWord) : (s.setRefusal c w).pending = s.pending := rfl
@[simp] theorem State.setRefusal_rxArmed (c : BitVec 8) (w : EventWord) : (s.setRefusal c w).rxArmed = s.rxArmed := rfl
@[simp] theorem State.setRefusal_mode (c : BitVec 8) (w : EventWord) : (s.setRefusal c w).mode = s.mode := rfl
@[simp] theorem State.setRefusal_refused (c : BitVec 8) (w : EventWord) : (s.setRefusal c w).refused = true := rfl
@[simp] theorem State.setRefusal_refuseCode (c : BitVec 8) (w : EventWord) : (s.setRefusal c w).refuseCode = c := rfl
@[simp] theorem State.setRefusal_refuseWord (c : BitVec 8) (w : EventWord) : (s.setRefusal c w).refuseWord = w := rfl
@[simp] theorem State.setRefusal_inbox (c : BitVec 8) (w : EventWord) : (s.setRefusal c w).inbox = s.inbox := rfl
@[simp] theorem State.setRefusal_concurrent (c : BitVec 8) (w : EventWord) : (s.setRefusal c w).concurrent = s.concurrent := rfl
@[simp] theorem State.setRefusal_handlerReads (c : BitVec 8) (w : EventWord) : (s.setRefusal c w).handlerReads = s.handlerReads := rfl
@[simp] theorem State.setRefusal_torn (c : BitVec 8) (w : EventWord) : (s.setRefusal c w).torn = s.torn := rfl
@[simp] theorem State.setRefusal_outputs (c : BitVec 8) (w : EventWord) : (s.setRefusal c w).outputs = s.outputs := rfl
@[simp] theorem State.setRefusal_draws (c : BitVec 8) (w : EventWord) : (s.setRefusal c w).draws = s.draws := rfl

/-! ### `State.emit` -/

@[simp] theorem State.emit_params (o : Output) : (s.emit o).params = s.params := rfl
@[simp] theorem State.emit_reg (o : Output) : (s.emit o).reg = s.reg := rfl
@[simp] theorem State.emit_ro (o : Output) : (s.emit o).ro = s.ro := rfl
@[simp] theorem State.emit_cb (o : Output) : (s.emit o).cb = s.cb := rfl
@[simp] theorem State.emit_phase (o : Output) : (s.emit o).phase = s.phase := rfl
@[simp] theorem State.emit_target (o : Output) : (s.emit o).target = s.target := rfl
@[simp] theorem State.emit_count (o : Output) : (s.emit o).count = s.count := rfl
@[simp] theorem State.emit_pending (o : Output) : (s.emit o).pending = s.pending := rfl
@[simp] theorem State.emit_rxArmed (o : Output) : (s.emit o).rxArmed = s.rxArmed := rfl
@[simp] theorem State.emit_mode (o : Output) : (s.emit o).mode = s.mode := rfl
@[simp] theorem State.emit_refused (o : Output) : (s.emit o).refused = s.refused := rfl
@[simp] theorem State.emit_refuseCode (o : Output) : (s.emit o).refuseCode = s.refuseCode := rfl
@[simp] theorem State.emit_refuseWord (o : Output) : (s.emit o).refuseWord = s.refuseWord := rfl
@[simp] theorem State.emit_inbox (o : Output) : (s.emit o).inbox = s.inbox := rfl
@[simp] theorem State.emit_concurrent (o : Output) : (s.emit o).concurrent = s.concurrent := rfl
@[simp] theorem State.emit_handlerReads (o : Output) : (s.emit o).handlerReads = s.handlerReads := rfl
@[simp] theorem State.emit_torn (o : Output) : (s.emit o).torn = s.torn := rfl
@[simp] theorem State.emit_outputs (o : Output) : (s.emit o).outputs = s.outputs ++ [o] := rfl
@[simp] theorem State.emit_draws (o : Output) : (s.emit o).draws = s.draws := rfl

/-! ### `State.setInbox` -/

@[simp] theorem State.setInbox_params (ds : List Delivery) : (s.setInbox ds).params = s.params := rfl
@[simp] theorem State.setInbox_reg (ds : List Delivery) : (s.setInbox ds).reg = s.reg := rfl
@[simp] theorem State.setInbox_ro (ds : List Delivery) : (s.setInbox ds).ro = s.ro := rfl
@[simp] theorem State.setInbox_cb (ds : List Delivery) : (s.setInbox ds).cb = s.cb := rfl
@[simp] theorem State.setInbox_phase (ds : List Delivery) : (s.setInbox ds).phase = s.phase := rfl
@[simp] theorem State.setInbox_target (ds : List Delivery) : (s.setInbox ds).target = s.target := rfl
@[simp] theorem State.setInbox_count (ds : List Delivery) : (s.setInbox ds).count = s.count := rfl
@[simp] theorem State.setInbox_pending (ds : List Delivery) : (s.setInbox ds).pending = s.pending := rfl
@[simp] theorem State.setInbox_rxArmed (ds : List Delivery) : (s.setInbox ds).rxArmed = s.rxArmed := rfl
@[simp] theorem State.setInbox_mode (ds : List Delivery) : (s.setInbox ds).mode = s.mode := rfl
@[simp] theorem State.setInbox_refused (ds : List Delivery) : (s.setInbox ds).refused = s.refused := rfl
@[simp] theorem State.setInbox_refuseCode (ds : List Delivery) : (s.setInbox ds).refuseCode = s.refuseCode := rfl
@[simp] theorem State.setInbox_refuseWord (ds : List Delivery) : (s.setInbox ds).refuseWord = s.refuseWord := rfl
@[simp] theorem State.setInbox_inbox (ds : List Delivery) : (s.setInbox ds).inbox = ds := rfl
@[simp] theorem State.setInbox_concurrent (ds : List Delivery) : (s.setInbox ds).concurrent = s.concurrent := rfl
@[simp] theorem State.setInbox_handlerReads (ds : List Delivery) : (s.setInbox ds).handlerReads = s.handlerReads := rfl
@[simp] theorem State.setInbox_torn (ds : List Delivery) : (s.setInbox ds).torn = s.torn := rfl
@[simp] theorem State.setInbox_outputs (ds : List Delivery) : (s.setInbox ds).outputs = s.outputs := rfl
@[simp] theorem State.setInbox_draws (ds : List Delivery) : (s.setInbox ds).draws = s.draws := rfl

/-! ### `State.setConcurrent` -/

@[simp] theorem State.setConcurrent_params (b : Bool) : (s.setConcurrent b).params = s.params := rfl
@[simp] theorem State.setConcurrent_reg (b : Bool) : (s.setConcurrent b).reg = s.reg := rfl
@[simp] theorem State.setConcurrent_ro (b : Bool) : (s.setConcurrent b).ro = s.ro := rfl
@[simp] theorem State.setConcurrent_cb (b : Bool) : (s.setConcurrent b).cb = s.cb := rfl
@[simp] theorem State.setConcurrent_phase (b : Bool) : (s.setConcurrent b).phase = s.phase := rfl
@[simp] theorem State.setConcurrent_target (b : Bool) : (s.setConcurrent b).target = s.target := rfl
@[simp] theorem State.setConcurrent_count (b : Bool) : (s.setConcurrent b).count = s.count := rfl
@[simp] theorem State.setConcurrent_pending (b : Bool) : (s.setConcurrent b).pending = s.pending := rfl
@[simp] theorem State.setConcurrent_rxArmed (b : Bool) : (s.setConcurrent b).rxArmed = s.rxArmed := rfl
@[simp] theorem State.setConcurrent_mode (b : Bool) : (s.setConcurrent b).mode = s.mode := rfl
@[simp] theorem State.setConcurrent_refused (b : Bool) : (s.setConcurrent b).refused = s.refused := rfl
@[simp] theorem State.setConcurrent_refuseCode (b : Bool) : (s.setConcurrent b).refuseCode = s.refuseCode := rfl
@[simp] theorem State.setConcurrent_refuseWord (b : Bool) : (s.setConcurrent b).refuseWord = s.refuseWord := rfl
@[simp] theorem State.setConcurrent_inbox (b : Bool) : (s.setConcurrent b).inbox = s.inbox := rfl
@[simp] theorem State.setConcurrent_concurrent (b : Bool) : (s.setConcurrent b).concurrent = b := rfl
@[simp] theorem State.setConcurrent_handlerReads (b : Bool) : (s.setConcurrent b).handlerReads = s.handlerReads := rfl
@[simp] theorem State.setConcurrent_torn (b : Bool) : (s.setConcurrent b).torn = s.torn := rfl
@[simp] theorem State.setConcurrent_outputs (b : Bool) : (s.setConcurrent b).outputs = s.outputs := rfl
@[simp] theorem State.setConcurrent_draws (b : Bool) : (s.setConcurrent b).draws = s.draws := rfl

/-! ### `State.setTorn` -/

@[simp] theorem State.setTorn_params (is : List Index) : (s.setTorn is).params = s.params := rfl
@[simp] theorem State.setTorn_reg (is : List Index) : (s.setTorn is).reg = s.reg := rfl
@[simp] theorem State.setTorn_ro (is : List Index) : (s.setTorn is).ro = s.ro := rfl
@[simp] theorem State.setTorn_cb (is : List Index) : (s.setTorn is).cb = s.cb := rfl
@[simp] theorem State.setTorn_phase (is : List Index) : (s.setTorn is).phase = s.phase := rfl
@[simp] theorem State.setTorn_target (is : List Index) : (s.setTorn is).target = s.target := rfl
@[simp] theorem State.setTorn_count (is : List Index) : (s.setTorn is).count = s.count := rfl
@[simp] theorem State.setTorn_pending (is : List Index) : (s.setTorn is).pending = s.pending := rfl
@[simp] theorem State.setTorn_rxArmed (is : List Index) : (s.setTorn is).rxArmed = s.rxArmed := rfl
@[simp] theorem State.setTorn_mode (is : List Index) : (s.setTorn is).mode = s.mode := rfl
@[simp] theorem State.setTorn_refused (is : List Index) : (s.setTorn is).refused = s.refused := rfl
@[simp] theorem State.setTorn_refuseCode (is : List Index) : (s.setTorn is).refuseCode = s.refuseCode := rfl
@[simp] theorem State.setTorn_refuseWord (is : List Index) : (s.setTorn is).refuseWord = s.refuseWord := rfl
@[simp] theorem State.setTorn_inbox (is : List Index) : (s.setTorn is).inbox = s.inbox := rfl
@[simp] theorem State.setTorn_concurrent (is : List Index) : (s.setTorn is).concurrent = s.concurrent := rfl
@[simp] theorem State.setTorn_handlerReads (is : List Index) : (s.setTorn is).handlerReads = s.handlerReads := rfl
@[simp] theorem State.setTorn_torn (is : List Index) : (s.setTorn is).torn = is := rfl
@[simp] theorem State.setTorn_outputs (is : List Index) : (s.setTorn is).outputs = s.outputs := rfl
@[simp] theorem State.setTorn_draws (is : List Index) : (s.setTorn is).draws = s.draws := rfl

/-! ### `State.setHandlerReads` -/

@[simp] theorem State.setHandlerReads_params (is : List Index) : (s.setHandlerReads is).params = s.params := rfl
@[simp] theorem State.setHandlerReads_reg (is : List Index) : (s.setHandlerReads is).reg = s.reg := rfl
@[simp] theorem State.setHandlerReads_ro (is : List Index) : (s.setHandlerReads is).ro = s.ro := rfl
@[simp] theorem State.setHandlerReads_cb (is : List Index) : (s.setHandlerReads is).cb = s.cb := rfl
@[simp] theorem State.setHandlerReads_phase (is : List Index) : (s.setHandlerReads is).phase = s.phase := rfl
@[simp] theorem State.setHandlerReads_target (is : List Index) : (s.setHandlerReads is).target = s.target := rfl
@[simp] theorem State.setHandlerReads_count (is : List Index) : (s.setHandlerReads is).count = s.count := rfl
@[simp] theorem State.setHandlerReads_pending (is : List Index) : (s.setHandlerReads is).pending = s.pending := rfl
@[simp] theorem State.setHandlerReads_rxArmed (is : List Index) : (s.setHandlerReads is).rxArmed = s.rxArmed := rfl
@[simp] theorem State.setHandlerReads_mode (is : List Index) : (s.setHandlerReads is).mode = s.mode := rfl
@[simp] theorem State.setHandlerReads_refused (is : List Index) : (s.setHandlerReads is).refused = s.refused := rfl
@[simp] theorem State.setHandlerReads_refuseCode (is : List Index) : (s.setHandlerReads is).refuseCode = s.refuseCode := rfl
@[simp] theorem State.setHandlerReads_refuseWord (is : List Index) : (s.setHandlerReads is).refuseWord = s.refuseWord := rfl
@[simp] theorem State.setHandlerReads_inbox (is : List Index) : (s.setHandlerReads is).inbox = s.inbox := rfl
@[simp] theorem State.setHandlerReads_concurrent (is : List Index) : (s.setHandlerReads is).concurrent = s.concurrent := rfl
@[simp] theorem State.setHandlerReads_handlerReads (is : List Index) : (s.setHandlerReads is).handlerReads = is := rfl
@[simp] theorem State.setHandlerReads_torn (is : List Index) : (s.setHandlerReads is).torn = s.torn := rfl
@[simp] theorem State.setHandlerReads_outputs (is : List Index) : (s.setHandlerReads is).outputs = s.outputs := rfl
@[simp] theorem State.setHandlerReads_draws (is : List Index) : (s.setHandlerReads is).draws = s.draws := rfl

/-! ### `State.nextDraw` -/

@[simp] theorem State.nextDraw_params : (s.nextDraw).params = s.params := rfl
@[simp] theorem State.nextDraw_reg : (s.nextDraw).reg = s.reg := rfl
@[simp] theorem State.nextDraw_ro : (s.nextDraw).ro = s.ro := rfl
@[simp] theorem State.nextDraw_cb : (s.nextDraw).cb = s.cb := rfl
@[simp] theorem State.nextDraw_phase : (s.nextDraw).phase = s.phase := rfl
@[simp] theorem State.nextDraw_target : (s.nextDraw).target = s.target := rfl
@[simp] theorem State.nextDraw_count : (s.nextDraw).count = s.count := rfl
@[simp] theorem State.nextDraw_pending : (s.nextDraw).pending = s.pending := rfl
@[simp] theorem State.nextDraw_rxArmed : (s.nextDraw).rxArmed = s.rxArmed := rfl
@[simp] theorem State.nextDraw_mode : (s.nextDraw).mode = s.mode := rfl
@[simp] theorem State.nextDraw_refused : (s.nextDraw).refused = s.refused := rfl
@[simp] theorem State.nextDraw_refuseCode : (s.nextDraw).refuseCode = s.refuseCode := rfl
@[simp] theorem State.nextDraw_refuseWord : (s.nextDraw).refuseWord = s.refuseWord := rfl
@[simp] theorem State.nextDraw_inbox : (s.nextDraw).inbox = s.inbox := rfl
@[simp] theorem State.nextDraw_concurrent : (s.nextDraw).concurrent = s.concurrent := rfl
@[simp] theorem State.nextDraw_handlerReads : (s.nextDraw).handlerReads = s.handlerReads := rfl
@[simp] theorem State.nextDraw_torn : (s.nextDraw).torn = s.torn := rfl
@[simp] theorem State.nextDraw_outputs : (s.nextDraw).outputs = s.outputs := rfl
@[simp] theorem State.nextDraw_draws : (s.nextDraw).draws = s.draws + 1 := rfl

/-! ### `State.resetWith` -/

@[simp] theorem State.resetWith_params (p : Params) : (State.resetWith p).params = p := rfl
@[simp] theorem State.resetWith_reg (p : Params) : (State.resetWith p).reg = List.replicate p.regCount 0 := rfl
@[simp] theorem State.resetWith_ro (p : Params) : (State.resetWith p).ro = List.replicate p.regCount false := rfl
@[simp] theorem State.resetWith_cb (p : Params) : (State.resetWith p).cb = List.replicate p.regCount 0 := rfl
@[simp] theorem State.resetWith_phase (p : Params) : (State.resetWith p).phase = .idle := rfl
@[simp] theorem State.resetWith_target (p : Params) : (State.resetWith p).target = 0 := rfl
@[simp] theorem State.resetWith_count (p : Params) : (State.resetWith p).count = 0 := rfl
@[simp] theorem State.resetWith_pending (p : Params) : (State.resetWith p).pending = 0 := rfl
@[simp] theorem State.resetWith_rxArmed (p : Params) : (State.resetWith p).rxArmed = false := rfl
@[simp] theorem State.resetWith_mode (p : Params) : (State.resetWith p).mode = .config := rfl
@[simp] theorem State.resetWith_refused (p : Params) : (State.resetWith p).refused = false := rfl
@[simp] theorem State.resetWith_refuseCode (p : Params) : (State.resetWith p).refuseCode = 0 := rfl
@[simp] theorem State.resetWith_refuseWord (p : Params) : (State.resetWith p).refuseWord = 0 := rfl
@[simp] theorem State.resetWith_inbox (p : Params) : (State.resetWith p).inbox = [] := rfl
@[simp] theorem State.resetWith_concurrent (p : Params) : (State.resetWith p).concurrent = false := rfl
@[simp] theorem State.resetWith_handlerReads (p : Params) : (State.resetWith p).handlerReads = [] := rfl
@[simp] theorem State.resetWith_torn (p : Params) : (State.resetWith p).torn = [] := rfl
@[simp] theorem State.resetWith_outputs (p : Params) : (State.resetWith p).outputs = [] := rfl
@[simp] theorem State.resetWith_draws (p : Params) : (State.resetWith p).draws = 0 := rfl

end Sys2Proof.Machine
end

