-- ==== Sys2Proof/Laws/Ops.lean ====
section
/-! SUPPORT. What each shared operation of Machine/Ops.lean can do, said once. -/

namespace Sys2Proof.Machine

/-! ### Going on, refusing, the mode checks -/

@[simp] theorem andThen_next (s : State) (k : State → Result) : andThen (.next s) k = k s := rfl

@[simp] theorem andThen_fault (f : Fault) (k : State → Result) : andThen (.fault f) k = .fault f := rfl

@[simp] theorem andThen_refused (f : Refusal) (k : State → Result) : andThen (.refused f) k = .refused f := rfl

/-- A step that goes on after a part of it went through that part's next state. -/
theorem andThen_eq_next {r : Result} {k : State → Result} {t : State} :
    andThen r k = .next t ↔ ∃ s, r = .next s ∧ k s = .next t := by
  cases r <;> simp

theorem refuse_eq (c : RefuseCause) (w : EventWord) (s : State) :
    refuse c w s = .next (s.setRefusal c.code w) := rfl

theorem busPre_run {i : Instr} {s : State} {k : State → Result} (h : s.mode = .run) : busPre i s k = k s := by
  simp [busPre, h]

theorem busPre_config {i : Instr} {s : State} {k : State → Result} (h : s.mode = .config) :
    busPre i s k = .next (s.setRefusal 0x03 (encode i)) := by
  simp [busPre, h, refuse, RefuseCause.code]

theorem setupPre_config {i : Instr} {s : State} {k : State → Result} (h : s.mode = .config) :
    setupPre i s k = k s := by
  simp [setupPre, h]

theorem setupPre_run {i : Instr} {s : State} {k : State → Result} (h : s.mode = .run) :
    setupPre i s k = .next (s.setRefusal 0x04 (encode i)) := by
  simp [setupPre, h, refuse, RefuseCause.code]

/-! ### Register table -/

theorem inBounds_iff {s : State} {i : Nat} : inBounds s i = true ↔ i < s.params.regCount := by
  simp [inBounds]

theorem memRead_inBounds {s : State} {i : Nat} (h : i < s.params.regCount) : memRead s i = s.reg.getD i 0 := by
  simp [memRead, inBounds, h]

theorem memRead_outOfBounds {s : State} {i : Nat} (h : s.params.regCount ≤ i) : memRead s i = 0xFFFFFFFF := by
  simp [memRead, inBounds, Nat.not_lt.mpr h, Config.readSentinel]

/-- A read looks at the register table and the bound only. -/
theorem memRead_congr {s t : State} (hp : t.params = s.params) (hr : t.reg = s.reg) (i : Nat) :
    memRead t i = memRead s i := by
  simp [memRead, inBounds, hp, hr]

/-- A store into the table is read back at its own index, and nowhere else. -/
theorem memRead_of_set {s t : State} {a : Nat} {v : Word} (hp : t.params = s.params) (hr : t.reg = s.reg.set a v)
    (hw : Memory.wf s) (ha : a < s.params.regCount) (i : Nat) :
    memRead t i = if a = i then v else memRead s i := by
  obtain ⟨hl, -, -⟩ := hw
  by_cases h : a = i
  · subst h
    simp [memRead, inBounds, hp, hr, ha, hl]
  · simp [memRead, inBounds, hp, hr, h]

/-- A store to another index is not seen, whatever the table's form. -/
theorem memRead_of_set_ne {s t : State} {a i : Nat} {v : Word} (hp : t.params = s.params)
    (hr : t.reg = s.reg.set a v) (h : a ≠ i) : memRead t i = memRead s i := by
  simp [memRead, inBounds, hp, hr, h]

/-- A handler's run changes the outputs and nothing else. -/
theorem runHandler_eq (s : State) : runHandler s = { s with outputs := s.outputs ++ handlerReplies s } := by
  suffices h : ∀ (is : List Index) (t : State), is.foldl (fun t i => replyRead i t) t =
      { t with outputs := t.outputs ++ is.map fun j => .appData (memRead t j.toNat) } from h s.handlerReads s
  intro is
  induction is with
  | nil => simp
  | cons i is ih =>
    intro t
    rw [List.foldl_cons, ih]
    simp [replyRead, State.emit, memRead, inBounds]

theorem handlerReplies_congr {s t : State} (hp : t.params = s.params) (hr : t.reg = s.reg)
    (hh : t.handlerReads = s.handlerReads) : handlerReplies t = handlerReplies s := by
  simp [handlerReplies, memRead, inBounds, hp, hr, hh]

@[simp] theorem callback_notMem_handlerReplies (s : State) (i : Nat) (h : Word) :
    Output.callback i h ∉ handlerReplies s := by
  simp [handlerReplies]

/-- A callback record and then the handler's run. -/
theorem runHandler_emit (s : State) (o : Output) :
    runHandler (s.emit o) = { s with outputs := s.outputs ++ o :: handlerReplies s } := by
  rw [runHandler_eq, handlerReplies_congr (s := s) rfl rfl rfl, State.emit_outputs, List.append_assoc]
  rfl

theorem callbackRecords_none {s : State} {i : Nat} (hh : handlerOf s i = 0) : callbackRecords s i = [] :=
  if_neg fun h => h.2 hh

theorem callbackRecords_some {s : State} {i : Nat} (hb : inBounds s i = true) (hh : handlerOf s i ≠ 0) :
    callbackRecords s i = .callback i (handlerOf s i) :: handlerReplies s :=
  if_pos ⟨hb, hh⟩

theorem invokeCallback_none {s : State} {i : Nat} (hh : handlerOf s i = 0) : invokeCallback i s = .next s :=
  if_pos hh

theorem invokeCallback_some {s : State} {i : Nat} (hb : inBounds s i = true) (hh : handlerOf s i ≠ 0) :
    invokeCallback i s = handlerReturns { s with outputs := s.outputs ++ callbackRecords s i } := by
  rw [invokeCallback, if_neg hh, runHandler_emit, callbackRecords_some hb hh]

/-- Invoking a callback where handlers return. -/
theorem invokeCallback_eq {s : State} {i : Nat} (h : s.params.callbackMayHang = false) (hb : inBounds s i = true) :
    invokeCallback i s = .next { s with outputs := s.outputs ++ callbackRecords s i } := by
  by_cases hh : handlerOf s i = 0
  · rw [invokeCallback_none hh, callbackRecords_none hh, List.append_nil]
  · rw [invokeCallback_some hb hh, handlerReturns, h]
    rfl

/-- Everything invoking a callback can do when it goes on: the records, and the draw counter. -/
theorem invokeCallback_next {s t : State} {i : Nat} (hb : inBounds s i = true) (h : invokeCallback i s = .next t) :
    t = { s with outputs := s.outputs ++ callbackRecords s i, draws := t.draws } := by
  by_cases hh : handlerOf s i = 0
  · rw [invokeCallback_none hh] at h
    cases h
    rw [callbackRecords_none hh, List.append_nil]
  · rw [invokeCallback_some hb hh, handlerReturns] at h
    split at h
    · split at h
      · cases h
      · cases h
        rfl
    · cases h
      rfl

/-- The store behind the gate, in bounds, as one record update. -/
theorem storeUnlessReadOnly_eq {s : State} {i : Nat} (v : Word) (hb : inBounds s i = true) :
    storeUnlessReadOnly i v s = { s with reg := tableAfterWrite s i v } := by
  cases hr : isReadOnly s i <;> simp [storeUnlessReadOnly, tableAfterWrite, hr, hb, State.setReg]

/-- MemWrite where handlers return (R112, R115, R118): the table behind the bounds check and the read-only gate, the
records of the callback, nothing else. -/
theorem memWrite_eq {s : State} {i : Nat} {v : Word} (h : s.params.callbackMayHang = false) :
    memWrite i v s =
      .next { s with reg := tableAfterWrite s i v, outputs := s.outputs ++ memWriteRecords s i v } := by
  by_cases hb : inBounds s i = true
  · rw [memWrite, if_pos hb, storeUnlessReadOnly_eq v hb]
    exact invokeCallback_eq (s := { s with reg := tableAfterWrite s i v }) h hb
  · simp [memWrite, hb, memWriteRecords, callbackRecords, tableAfterWrite]

/-- Everything MemWrite can do when it goes on, handlers that may hang included: only the table, the outputs and the
draw counter differ. -/
theorem memWrite_next {s t : State} {i : Nat} {v : Word} (h : memWrite i v s = .next t) :
    t = { s with
      reg := tableAfterWrite s i v, outputs := s.outputs ++ memWriteRecords s i v, draws := t.draws } := by
  by_cases hb : inBounds s i = true
  · rw [memWrite, if_pos hb, storeUnlessReadOnly_eq v hb] at h
    exact invokeCallback_next (s := { s with reg := tableAfterWrite s i v }) hb h
  · rw [memWrite, if_neg hb] at h
    cases h
    simp [memWriteRecords, callbackRecords, tableAfterWrite, hb]

/-- What is among the records of a callback. -/
theorem mem_callbackRecords {s : State} {i : Nat} {o : Output} :
    o ∈ callbackRecords s i ↔
      i < s.params.regCount ∧ handlerOf s i ≠ 0 ∧ (o = .callback i (handlerOf s i) ∨ o ∈ handlerReplies s) := by
  unfold callbackRecords
  split <;> simp_all [inBounds]

/-- The callbacks among the records of a MemWrite. -/
theorem callback_mem_memWriteRecords {s : State} {i j : Nat} {v h : Word} :
    Output.callback j h ∈ memWriteRecords s i v ↔
      i < s.params.regCount ∧ handlerOf s i ≠ 0 ∧ j = i ∧ h = handlerOf s i := by
  simp [memWriteRecords, mem_callbackRecords, handlerOf]

/-- Where the host declares no handler reads, the records of a MemWrite are its callback. -/
theorem memWriteRecords_noReads {s : State} (hh : s.handlerReads = []) (i : Nat) (v : Word) :
    memWriteRecords s i v =
      if inBounds s i = true ∧ handlerOf s i ≠ 0 then [.callback i (handlerOf s i)] else [] := by
  simp [memWriteRecords, callbackRecords, handlerReplies, hh, handlerOf, inBounds]

/-- The table after an event that makes a MemWrite. -/
theorem tableAfterWrite_eq_store {i : Instr} {s : State} {a : Nat} {v : Word} (h : memWriteOf i s = some (a, v)) :
    tableAfterWrite s a v = match storeOf i s with
      | some (b, u) => s.reg.set b u
      | none => s.reg := by
  unfold storeOf tableAfterWrite
  rw [h]
  by_cases c : inBounds s a = true ∧ isReadOnly s a = false
  · simp only [if_pos c]
  · simp only [if_neg c]

/-- What a read of the table after a MemWrite gives. -/
theorem memRead_tableAfterWrite {s : State} (hw : Memory.wf s) (i j : Nat) (v : Word) :
    memRead { s with reg := tableAfterWrite s i v } j =
      if j = i ∧ i < s.params.regCount ∧ isReadOnly s i = false then v else memRead s j := by
  by_cases c : i < s.params.regCount ∧ isReadOnly s i = false
  · have hr : tableAfterWrite s i v = s.reg.set i v := if_pos ⟨inBounds_iff.mpr c.1, c.2⟩
    rw [memRead_of_set (s := s) (t := { s with reg := tableAfterWrite s i v }) rfl hr hw c.1]
    simp only [c, and_true, eq_comm (a := i)]
  · have hr : tableAfterWrite s i v = s.reg := if_neg fun h => c ⟨inBounds_iff.mp h.1, h.2⟩
    rw [hr, if_neg fun h => c h.2]

/-- The table and the records of MemWrite look at the table's arrays and the bound only. -/
theorem tableAfterWrite_congr {s t : State} (hp : t.params = s.params) (hr : t.reg = s.reg) (ho : t.ro = s.ro)
    (i : Nat) (v : Word) : tableAfterWrite t i v = tableAfterWrite s i v := by
  simp [tableAfterWrite, inBounds, isReadOnly, hp, hr, ho]

theorem memWriteRecords_congr {s t : State} (hp : t.params = s.params) (hr : t.reg = s.reg) (ho : t.ro = s.ro)
    (hc : t.cb = s.cb) (hh : t.handlerReads = s.handlerReads) (i : Nat) (v : Word) :
    memWriteRecords t i v = memWriteRecords s i v := by
  simp [memWriteRecords, callbackRecords, handlerReplies, memRead, inBounds, handlerOf, hp, hc, hh,
    tableAfterWrite_congr hp hr ho]

/-! ### Composite updates as one record update each -/

theorem disarmRx_eq (s : State) : disarmRx s = { s with rxArmed := false } := rfl

theorem armRx_eq (s : State) : armRx s = { s with rxArmed := true } := rfl

theorem idleContext_eq (s : State) : idleContext s = { s with phase := .idle, count := 0, pending := 0 } := rfl

theorem indexByte_eq (b : Byte) (s : State) : indexByte b s = { s with
    target := b, phase := .data, count := 0, pending := 0, rxArmed := true,
    outputs := s.outputs ++ [.reqRx .lane0 .next] } := by
  simp only [indexByte, armRx, State.setTarget, State.setPhase, State.setCount, State.setPending, State.setRxArmed,
    State.emit]

theorem transmit_eq (v : Word) (s : State) : transmit v s = { s with
    outputs := s.outputs ++ [.reqTx (lane v 0) (lane v 1) (lane v 2) (lane v 3)] } := rfl

theorem replyRead_eq (i : Index) (s : State) :
    replyRead i s = { s with outputs := s.outputs ++ [.appData (memRead s i.toNat)] } := rfl

theorem deferRead_eq (i : Index) (s : State) : deferRead i s = { s with torn := s.torn ++ [i] } := rfl

theorem takeDelivery_eq (d : Delivery) (rest : List Delivery) (s : State) :
    takeDelivery d rest s =
      { s with inbox := rest, concurrent := d.concurrent, handlerReads := d.handlerReads } := rfl

theorem deliver_eq (s : State) (d : Delivery) : s.deliver d = { s with inbox := s.inbox ++ [d] } := rfl

/-! ### Reception -/

/-- A data byte that is not the fourth (R145, first branch). -/
theorem dataByte_notLast {b : Byte} {s : State} (h : s.count.val + 1 < 4) :
    dataByte b s = .next { s with
      pending := s.pending ||| placeLane b s.count.val
      count := ⟨s.count.val + 1, Nat.lt_succ_of_lt h⟩
      rxArmed := true
      outputs := s.outputs ++ [.reqRx (laneDest (s.count.val + 1)) (laneFrame (s.count.val + 1))] } := by
  simp [dataByte, h, armRx, State.setPending, State.setCount, State.setRxArmed, State.emit]

/-- The fourth data byte (R145, second branch). -/
theorem dataByte_last {b : Byte} {s : State} (h : 3 ≤ s.count.val) :
    dataByte b s = memWrite s.target.toNat (s.pending ||| placeLane b s.count.val) (idleContext s) := by
  have : ¬ s.count.val + 1 < 4 := by omega
  simp [dataByte, this]

/-! ### Waiting application reads -/

/-- With no read waiting, the end of a step changes nothing but what the host declared. -/
theorem finishStep_none {s t : State} (hs : s.torn = []) (ht : t.torn = []) :
    finishStep s t = { t with concurrent := false, handlerReads := [] } := by
  have h : answerTorn s t = t := by
    rw [answerTorn, if_pos (ht.trans hs.symm), hs, List.foldl_nil, State.setTorn, ← ht]
  rw [finishStep, h, State.setConcurrent, State.setHandlerReads]

/-- What the replies to waiting reads change: the outputs and the draw counter. -/
theorem foldl_replyTorn (before : State) (is : List Index) (s : State) :
    ∃ os n, is.foldl (replyTorn before) s = { s with outputs := s.outputs ++ os, draws := n } := by
  induction is generalizing s with
  | nil => exact ⟨[], s.draws, by simp⟩
  | cons i is ih =>
    obtain ⟨os, n, h⟩ := ih (replyTorn before s i)
    rw [List.foldl_cons, h]
    refine ⟨.appData (mixLanes (Config.freeLanes s.draws) (memRead before i.toNat) (memRead s i.toNat)) :: os, n, ?_⟩
    simp [replyTorn, State.emit, State.nextDraw]

/-- What the end of a step can change: `torn`, what the host declared, the outputs (by appending) and the draw counter. -/
theorem finishStep_eq (before after : State) :
    ∃ os n is, finishStep before after =
      { after with
        torn := is, concurrent := false, handlerReads := [], outputs := after.outputs ++ os, draws := n } := by
  by_cases h : after.torn = before.torn
  · obtain ⟨os, n, e⟩ := foldl_replyTorn before before.torn (after.setTorn [])
    refine ⟨os, n, [], ?_⟩
    rw [finishStep, answerTorn, if_pos h, e]
    rfl
  · exact ⟨[], after.draws, after.torn, by
      simp [finishStep, answerTorn, h, State.setConcurrent, State.setHandlerReads]⟩

/-! ### One step -/

theorem step_refused {s : State} (h : s.refused = true) : step s = .fault .instanceStuck := by
  simp [step, globalCheck, h]

theorem step_waits {s : State} (h : s.refused = false) (hi : s.inbox = []) : step s = .next s := by
  simp [step, globalCheck, h, hi, awaitEvent]

theorem step_takes {s : State} {d : Delivery} {rest : List Delivery} (h : s.refused = false)
    (hi : s.inbox = d :: rest) : step s = processEvent d.word (takeDelivery d rest s) := by
  simp [step, globalCheck, h, hi]

/-- Everything a step can do when it answers a next state: wait, run a decoded event, or refuse a reserved word. -/
theorem step_next {s t : State} (h : step s = .next t) :
    (s.refused = false ∧ s.inbox = [] ∧ t = s) ∨
    (∃ d rest i u, s.refused = false ∧ s.inbox = d :: rest ∧ decode d.word = .event i ∧
      exec i (takeDelivery d rest s) = .next u ∧ t = finishStep (takeDelivery d rest s) u) ∨
    (∃ d rest r, s.refused = false ∧ s.inbox = d :: rest ∧ decode d.word = .reserved r ∧
      t = finishStep (takeDelivery d rest s) ((takeDelivery d rest s).setRefusal 0x01 d.word)) := by
  cases hr : s.refused
  · cases hi : s.inbox with
    | nil =>
      rw [step_waits hr hi] at h
      cases h
      exact .inl ⟨rfl, rfl, rfl⟩
    | cons d rest =>
      rw [step_takes hr hi, processEvent] at h
      cases hd : decode d.word with
      | event i =>
        simp only [hd, stepEvent] at h
        obtain ⟨u, hu, ht⟩ := andThen_eq_next.mp h
        cases ht
        exact .inr (.inl ⟨d, rest, i, u, rfl, rfl, hd, hu, rfl⟩)
      | reserved r =>
        simp only [hd, stepEvent, refuseReserved, refuse_eq, andThen_next] at h
        cases h
        exact .inr (.inr ⟨d, rest, r, rfl, rfl, hd, rfl⟩)
  · rw [step_refused hr] at h
    cases h

end Sys2Proof.Machine
end

