-- ==== Sys2Proof/Laws/Exec.lean ====
section
/-! SUPPORT. What `exec` can change, said once for all events; the frame statements and the invariants rest on it. -/

namespace Sys2Proof.Machine

/-- The configuration side: only SETRO, SETCB and ENABLE in CONFIG change the flags, the handlers and the mode. -/
structure KeepsConfiguration (i : Instr) (s t : State) : Prop where
  params : t.params = s.params
  flags : t.ro = s.ro ∨
    ∃ (r : Index) (v : Word), i = .setro r v ∧ s.mode = .config ∧ t.ro = s.ro.set r.toNat true
  handlers : t.cb = s.cb ∨
    ∃ (r : Index) (h : Word), i = .setcb r h ∧ s.mode = .config ∧ t.cb = s.cb.set r.toNat h
  mode : t.mode = s.mode ∨ (i = .enable ∧ s.mode = .config ∧ t.mode = .run)

/-- The records of the MemWrite an event makes; none where it makes none. -/
def eventRecords (i : Instr) (s : State) : List Output :=
  match memWriteOf i s with
  | some (a, v) => memWriteRecords s a v
  | none => []

theorem eventRecords_some {i : Instr} {s : State} {a : Nat} {v : Word} (h : memWriteOf i s = some (a, v)) :
    eventRecords i s = memWriteRecords s a v := by
  simp [eventRecords, h]

/-- The data side: the store of `storeOf`, the index byte into `target`, records appended, the callback of a MemWrite
first and no other callback, and nothing around `exec` but a declared read joining `torn`. -/
structure KeepsData (i : Instr) (s t : State) : Prop where
  table : t.reg = match storeOf i s with
    | some (a, v) => s.reg.set a v
    | none => s.reg
  target : t.target = s.target ∨
    ∃ b, i = .rxc b ∧ s.mode = .run ∧ s.rxArmed = true ∧ s.phase = .address ∧ t.target = b
  outputs : ∃ rest, t.outputs = s.outputs ++ (eventRecords i s ++ rest) ∧ ∀ j h, Output.callback j h ∉ rest
  inbox : t.inbox = s.inbox
  concurrent : t.concurrent = s.concurrent
  handlerReads : t.handlerReads = s.handlerReads
  torn : readsTorn s = false → t.torn = s.torn

theorem exec_keepsConfiguration {i : Instr} {s t : State} (h : exec i s = .next t) : KeepsConfiguration i s t := by
  cases i with
  | addrW =>
    cases hm : s.mode <;> simp [exec, execAddrW, busPre, hm, refuse] at h <;> subst h <;>
      constructor <;> simp [armRx, hm]
  | addrR =>
    cases hm : s.mode <;> simp [exec, execAddrR, busPre, hm, refuse] at h <;> subst h <;>
      constructor <;> simp [transmit, disarmRx, hm]
  | listen =>
    cases hm : s.mode <;> simp [exec, execListen, busPre, hm, refuse] at h <;> subst h <;>
      constructor <;> simp [disarmRx, hm]
  | enable =>
    cases hm : s.mode <;> simp [exec, execEnable, setupPre, hm, refuse] at h <;> subst h <;>
      constructor <;> simp [hm]
  | aread r =>
    cases hr : readsTorn s <;> simp [exec, execAread, hr] at h <;> subst h <;>
      constructor <;> simp [deferRead, replyRead]
  | setro r v =>
    cases hm : s.mode <;> simp [exec, execSetro, setupPre, hm, refuse] at h <;> subst h
    · cases hb : inBounds s r.toNat <;> constructor <;> simp [setReadOnly, hm, hb]
    · constructor <;> simp [hm]
  | setcb r v =>
    cases hm : s.mode <;> simp [exec, execSetcb, setupPre, hm, refuse] at h <;> subst h
    · cases hb : inBounds s r.toNat <;> constructor <;> simp [setCallback, hm, hb]
    · constructor <;> simp [hm]
  | rxc b =>
    cases hm : s.mode
    · rw [exec, execRxc, busPre_config hm] at h
      cases h
      constructor <;> simp [hm]
    · rw [exec, execRxc, busPre_run hm] at h
      split at h
      · cases h
        constructor <;> simp [hm]
      · split at h
        · cases h
          constructor <;> simp [hm]
        · cases h
          constructor <;> simp [indexByte, armRx, disarmRx, hm]
        · by_cases hc : s.count.val + 1 < 4
          · rw [dataByte_notLast (by simpa [disarmRx] using hc)] at h
            cases h
            constructor <;> simp [disarmRx, hm]
          · rw [dataByte_last (by simp only [disarmRx, State.setRxArmed_count]; omega)] at h
            rw [memWrite_next h]
            constructor <;> simp [disarmRx, idleContext, hm]
  | err k =>
    cases hm : s.mode
    · rw [exec, execErr, busPre_config hm] at h
      cases h
      constructor <;> simp [hm]
    · rw [exec, execErr, busPre_run hm] at h
      obtain ⟨u, hu, ht⟩ := andThen_eq_next.mp h
      cases ht
      unfold salvage at hu
      split at hu
      · rw [memWrite_next hu]
        constructor <;> simp [disarmRx, idleContext, hm]
      · cases hu
        constructor <;> simp [disarmRx, idleContext, hm]

/-- The data side of an event that makes a MemWrite and whose other changes are `phase`, `count`, `pending`,
`rxArmed`, the draws, and records that are no callbacks. -/
theorem keepsData_of_memWrite {i : Instr} {s t : State} {a : Nat} {v : Word} {rest : List Output}
    (hw : memWriteOf i s = some (a, v)) (hreg : t.reg = tableAfterWrite s a v)
    (hout : t.outputs = s.outputs ++ (memWriteRecords s a v ++ rest)) (hrest : ∀ j h, Output.callback j h ∉ rest)
    (htarget : t.target = s.target) (hinbox : t.inbox = s.inbox) (hconc : t.concurrent = s.concurrent)
    (hreads : t.handlerReads = s.handlerReads) (htorn : t.torn = s.torn) : KeepsData i s t where
  table := hreg.trans (tableAfterWrite_eq_store hw)
  target := .inl htarget
  outputs := ⟨rest, by rw [hout, eventRecords_some hw], hrest⟩
  inbox := hinbox
  concurrent := hconc
  handlerReads := hreads
  torn := fun _ => htorn

theorem exec_keepsData {i : Instr} {s t : State} (h : exec i s = .next t) : KeepsData i s t := by
  cases i with
  | addrW =>
    cases hm : s.mode <;> simp [exec, execAddrW, busPre, hm, refuse] at h <;> subst h <;>
      constructor <;> simp [armRx, storeOf, eventRecords, memWriteOf, setReadOnlyOf]
  | addrR =>
    cases hm : s.mode <;> simp [exec, execAddrR, busPre, hm, refuse] at h <;> subst h <;>
      constructor <;> simp [transmit, disarmRx, storeOf, eventRecords, memWriteOf, setReadOnlyOf]
  | listen =>
    cases hm : s.mode <;> simp [exec, execListen, busPre, hm, refuse] at h <;> subst h <;>
      constructor <;> simp [disarmRx, storeOf, eventRecords, memWriteOf, setReadOnlyOf]
  | enable =>
    cases hm : s.mode <;> simp [exec, execEnable, setupPre, hm, refuse] at h <;> subst h <;>
      constructor <;> simp [storeOf, eventRecords, memWriteOf, setReadOnlyOf]
  | aread r =>
    cases hr : readsTorn s <;> simp [exec, execAread, hr] at h <;> subst h <;>
      constructor <;> simp [deferRead, replyRead, storeOf, eventRecords, memWriteOf, setReadOnlyOf, hr]
  | setro r v =>
    cases hm : s.mode <;> simp [exec, execSetro, setupPre, hm, refuse] at h <;> subst h
    · cases hb : inBounds s r.toNat <;> constructor <;>
        simp [setReadOnly, storeOf, eventRecords, memWriteOf, setReadOnlyOf, hm, hb]
    · constructor <;> simp [storeOf, eventRecords, memWriteOf, setReadOnlyOf, hm]
  | setcb r v =>
    cases hm : s.mode <;> simp [exec, execSetcb, setupPre, hm, refuse] at h <;> subst h
    · cases hb : inBounds s r.toNat <;> constructor <;>
        simp [setCallback, storeOf, eventRecords, memWriteOf, setReadOnlyOf, hb]
    · constructor <;> simp [storeOf, eventRecords, memWriteOf, setReadOnlyOf]
  | rxc b =>
    cases hm : s.mode
    · rw [exec, execRxc, busPre_config hm] at h
      cases h
      constructor <;> simp [storeOf, eventRecords, memWriteOf, setReadOnlyOf, hm]
    · rw [exec, execRxc, busPre_run hm] at h
      split at h
      · next ha =>
        cases h
        constructor <;> simp [storeOf, eventRecords, memWriteOf, setReadOnlyOf, ha]
      · next ha =>
        replace ha : s.rxArmed = true := by simpa using ha
        split at h
        · next hp =>
          cases h
          constructor <;> simp [storeOf, eventRecords, memWriteOf, setReadOnlyOf, hp]
        · next hp =>
          cases h
          constructor <;> simp [indexByte, armRx, disarmRx, storeOf, eventRecords, memWriteOf, setReadOnlyOf, hm, ha, hp]
        · next hp =>
          by_cases hc : s.count.val + 1 < 4
          · have hn : ¬ 3 ≤ s.count.val := by omega
            rw [dataByte_notLast (by simpa [disarmRx] using hc)] at h
            cases h
            constructor <;> simp [disarmRx, storeOf, eventRecords, memWriteOf, setReadOnlyOf, hn]
          · have h3 : 3 ≤ s.count.val := by omega
            rw [dataByte_last (by simpa [disarmRx] using h3)] at h
            rw [memWrite_next h]
            refine keepsData_of_memWrite (a := s.target.toNat) (v := s.pending ||| placeLane b s.count.val)
              (rest := []) ?_ (tableAfterWrite_congr rfl rfl rfl _ _) ?_ (by simp) rfl rfl rfl rfl rfl
            · simp [memWriteOf, hm, ha, hp, h3]
            · rw [List.append_nil]
              exact congrArg (s.outputs ++ ·) (memWriteRecords_congr rfl rfl rfl rfl rfl _ _)
  | err k =>
    cases hm : s.mode
    · rw [exec, execErr, busPre_config hm] at h
      cases h
      constructor <;> simp [storeOf, eventRecords, memWriteOf, setReadOnlyOf, hm]
    · rw [exec, execErr, busPre_run hm] at h
      obtain ⟨u, hu, ht⟩ := andThen_eq_next.mp h
      cases ht
      unfold salvage at hu
      split at hu
      · next hs =>
        rw [memWrite_next hu]
        exact keepsData_of_memWrite (a := s.target.toNat) (v := s.pending) (rest := [.reqListen])
          (by simp [memWriteOf, hm, hs]) rfl (by simp [disarmRx, idleContext]) (by simp) rfl rfl rfl rfl rfl
      · next hs =>
        cases hu
        constructor <;> simp [disarmRx, idleContext, storeOf, eventRecords, memWriteOf, setReadOnlyOf, hs]

end Sys2Proof.Machine
end

