-- ==== Sys2Proof/Laws/Memory.lean ====
section
/-! SUPPORT. The register table keeps its form, N slots in each array (10_state.md R21), through every operation. -/

namespace Sys2Proof.Machine

theorem resetWith_wf (p : Params) : Memory.wf (State.resetWith p) := by
  simp [Memory.wf]

theorem setReg_wf {s : State} (i : Nat) (v : Word) (h : Memory.wf s) : Memory.wf (s.setReg i v) := by
  simpa [Memory.wf] using h

theorem setRo_wf {s : State} (i : Nat) (h : Memory.wf s) : Memory.wf (s.setRo i) := by
  simpa [Memory.wf] using h

theorem setCb_wf {s : State} (i : Nat) (v : Word) (h : Memory.wf s) : Memory.wf (s.setCb i v) := by
  simpa [Memory.wf] using h

theorem tableAfterWrite_length (s : State) (i : Nat) (v : Word) : (tableAfterWrite s i v).length = s.reg.length := by
  unfold tableAfterWrite
  split <;> simp

theorem memWrite_wf {s t : State} {i : Nat} {v : Word} (hs : Memory.wf s) (h : memWrite i v s = .next t) :
    Memory.wf t := by
  rw [memWrite_next h]
  simpa [Memory.wf, tableAfterWrite_length] using hs

theorem setReadOnly_wf {s : State} (i : Nat) (v : Word) (h : Memory.wf s) : Memory.wf (setReadOnly i v s) := by
  unfold setReadOnly
  split
  · exact setRo_wf i (setReg_wf i v h)
  · exact h

theorem setCallback_wf {s : State} (i : Nat) (v : Word) (h : Memory.wf s) : Memory.wf (setCallback i v s) := by
  unfold setCallback
  split
  · exact setCb_wf i v h
  · exact h

theorem finishStep_wf {before after : State} (h : Memory.wf after) : Memory.wf (finishStep before after) := by
  obtain ⟨os, n, is, e⟩ := finishStep_eq before after
  rw [e]
  exact h

end Sys2Proof.Machine
end

