-- ==== Sys2Proof/Laws/Operands.lean ====
section
/-! SUPPORT. Byte lanes: what a placed byte, an assembled value and a torn value hold in each lane (00_scope.md R10,
20_memory.md R62, R66). -/

namespace Sys2Proof.Machine

@[simp] theorem lane_zero (k : Nat) : lane 0#32 k = 0#8 := by
  simp [lane]

@[simp] theorem lane_or (a b : Word) (k : Nat) : lane (a ||| b) k = lane a k ||| lane b k := by
  ext i hi
  simp [lane]

/-- A placed byte is in its own lane and nowhere else. -/
theorem lane_placeLane (b : Byte) {j k : Nat} (hj : j ≤ 3) (hk : k ≤ 3) :
    lane (placeLane b k) j = if j = k then b else 0 := by
  ext i hi
  interval_cases j <;> interval_cases k <;> interval_cases i <;> simp [lane, placeLane]

/-- Two values with the same four lanes are equal. -/
theorem eq_of_lanes {a b : Word} (h : ∀ k, k ≤ 3 → lane a k = lane b k) : a = b := by
  have bit (k i : Nat) (hk : k ≤ 3) (hi : i < 8) : a.getLsbD (8 * k + i) = b.getLsbD (8 * k + i) := by
    have := congrArg (fun v : Byte => v.getLsbD i) (h k hk)
    simpa [lane, BitVec.getLsbD_extractLsb', hi] using this
  refine BitVec.eq_of_getLsbD_eq fun i hi => ?_
  have := bit (i / 8) (i % 8) (by omega) (by omega)
  rwa [Nat.div_add_mod] at this

theorem lane_fromLanes (b0 b1 b2 b3 : Byte) {k : Nat} (hk : k ≤ 3) :
    lane (fromLanes b0 b1 b2 b3) k = [b0, b1, b2, b3].getD k 0 := by
  interval_cases k <;> simp [fromLanes, lane_placeLane]

/-- Each lane of a torn value is that lane of one of the two values. -/
theorem lane_mixLanes (m : BitVec 4) (a b : Word) {k : Nat} (hk : k ≤ 3) :
    lane (mixLanes m a b) k = if m.getLsbD k then lane b k else lane a k := by
  rw [mixLanes, lane_fromLanes _ _ _ _ hk]
  interval_cases k <;> rfl

/-- A torn read of a value that did not change answers that value. -/
theorem mixLanes_self (m : BitVec 4) (a : Word) : mixLanes m a a = a :=
  eq_of_lanes fun k hk => by rw [lane_mixLanes m a a hk, ite_self]

/-- A byte added to the lane `k` of a value whose lanes from `k` on are zero (41_transaction.md R145). -/
theorem lane_or_placeLane {v : Word} {b : Byte} {j k : Nat} (hj : j ≤ 3) (hk : k ≤ 3)
    (hz : lane v k = 0) : lane (v ||| placeLane b k) j = if j = k then b else lane v j := by
  rw [lane_or, lane_placeLane b hj hk]
  split
  · next h => simp [h, hz]
  · simp

end Sys2Proof.Machine
end

