-- ==== Sys2Proof/Laws/PerInstr.lean ====
section
/-! SUPPORT. The family EncodeFitsRow: the word of every event fits its row of the opcode map (30_encoding.md R86). -/

namespace Sys2Proof.Laws.EncodeFitsRow

/-- `W & mask == match` for the row of the event (R86). -/
def Statement (i : Instr) : Prop := encode i &&& rowMask i = rowMatch i

theorem addrW : Statement .addrW := by
  unfold Statement
  decide

theorem addrR : Statement .addrR := by
  unfold Statement
  decide

theorem rxc (b : Byte) : Statement (.rxc b) := by
  unfold Statement encode rowMask rowMatch pack
  ext i hi
  interval_cases i <;> simp

theorem listen : Statement .listen := by
  unfold Statement
  decide

theorem err (k : Byte) : Statement (.err k) := by
  unfold Statement encode rowMask rowMatch pack
  ext i hi
  interval_cases i <;> simp

theorem setro (i : Index) (v : Word) : Statement (.setro i v) := by
  unfold Statement encode rowMask rowMatch pack
  ext j hj
  interval_cases j <;> simp

theorem setcb (i : Index) (h : Word) : Statement (.setcb i h) := by
  unfold Statement encode rowMask rowMatch pack
  ext j hj
  interval_cases j <;> simp

theorem enable : Statement .enable := by
  unfold Statement
  decide

theorem aread (i : Index) : Statement (.aread i) := by
  unfold Statement encode rowMask rowMatch pack
  ext j hj
  interval_cases j <;> simp

end Sys2Proof.Laws.EncodeFitsRow
end

