-- ==== Sys2Proof/Laws/Step.lean ====
section
/-! SUPPORT. The fields around `exec` (taking a delivery, delivering one), and the form of the register table through
`exec` and `step`. -/

namespace Sys2Proof.Machine

variable (s : State) (d : Delivery) (rest : List Delivery)

/-! ### Fields of `takeDelivery` and `State.deliver` -/

@[simp] theorem takeDelivery_params : (takeDelivery d rest s).params = s.params := rfl
@[simp] theorem takeDelivery_reg : (takeDelivery d rest s).reg = s.reg := rfl
@[simp] theorem takeDelivery_ro : (takeDelivery d rest s).ro = s.ro := rfl
@[simp] theorem takeDelivery_cb : (takeDelivery d rest s).cb = s.cb := rfl
@[simp] theorem takeDelivery_phase : (takeDelivery d rest s).phase = s.phase := rfl
@[simp] theorem takeDelivery_target : (takeDelivery d rest s).target = s.target := rfl
@[simp] theorem takeDelivery_count : (takeDelivery d rest s).count = s.count := rfl
@[simp] theorem takeDelivery_pending : (takeDelivery d rest s).pending = s.pending := rfl
@[simp] theorem takeDelivery_rxArmed : (takeDelivery d rest s).rxArmed = s.rxArmed := rfl
@[simp] theorem takeDelivery_mode : (takeDelivery d rest s).mode = s.mode := rfl
@[simp] theorem takeDelivery_refused : (takeDelivery d rest s).refused = s.refused := rfl
@[simp] theorem takeDelivery_refuseCode : (takeDelivery d rest s).refuseCode = s.refuseCode := rfl
@[simp] theorem takeDelivery_refuseWord : (takeDelivery d rest s).refuseWord = s.refuseWord := rfl
@[simp] theorem takeDelivery_inbox : (takeDelivery d rest s).inbox = rest := rfl
@[simp] theorem takeDelivery_concurrent : (takeDelivery d rest s).concurrent = d.concurrent := rfl
@[simp] theorem takeDelivery_handlerReads : (takeDelivery d rest s).handlerReads = d.handlerReads := rfl
@[simp] theorem takeDelivery_torn : (takeDelivery d rest s).torn = s.torn := rfl
@[simp] theorem takeDelivery_outputs : (takeDelivery d rest s).outputs = s.outputs := rfl
@[simp] theorem takeDelivery_draws : (takeDelivery d rest s).draws = s.draws := rfl

@[simp] theorem State.deliver_params : (s.deliver d).params = s.params := rfl
@[simp] theorem State.deliver_reg : (s.deliver d).reg = s.reg := rfl
@[simp] theorem State.deliver_ro : (s.deliver d).ro = s.ro := rfl
@[simp] theorem State.deliver_cb : (s.deliver d).cb = s.cb := rfl
@[simp] theorem State.deliver_phase : (s.deliver d).phase = s.phase := rfl
@[simp] theorem State.deliver_target : (s.deliver d).target = s.target := rfl
@[simp] theorem State.deliver_count : (s.deliver d).count = s.count := rfl
@[simp] theorem State.deliver_pending : (s.deliver d).pending = s.pending := rfl
@[simp] theorem State.deliver_rxArmed : (s.deliver d).rxArmed = s.rxArmed := rfl
@[simp] theorem State.deliver_mode : (s.deliver d).mode = s.mode := rfl
@[simp] theorem State.deliver_refused : (s.deliver d).refused = s.refused := rfl
@[simp] theorem State.deliver_refuseCode : (s.deliver d).refuseCode = s.refuseCode := rfl
@[simp] theorem State.deliver_refuseWord : (s.deliver d).refuseWord = s.refuseWord := rfl
@[simp] theorem State.deliver_inbox : (s.deliver d).inbox = s.inbox ++ [d] := rfl
@[simp] theorem State.deliver_concurrent : (s.deliver d).concurrent = s.concurrent := rfl
@[simp] theorem State.deliver_handlerReads : (s.deliver d).handlerReads = s.handlerReads := rfl
@[simp] theorem State.deliver_torn : (s.deliver d).torn = s.torn := rfl
@[simp] theorem State.deliver_outputs : (s.deliver d).outputs = s.outputs := rfl
@[simp] theorem State.deliver_draws : (s.deliver d).draws = s.draws := rfl

/-- Reads, flags, handlers and the stores of an event do not look at the deliveries. -/
@[simp] theorem memRead_takeDelivery (i : Nat) : memRead (takeDelivery d rest s) i = memRead s i := rfl

@[simp] theorem memRead_deliver (i : Nat) : memRead (s.deliver d) i = memRead s i := rfl

@[simp] theorem isReadOnly_takeDelivery (i : Nat) : isReadOnly (takeDelivery d rest s) i = isReadOnly s i := rfl

@[simp] theorem handlerOf_takeDelivery (i : Nat) : handlerOf (takeDelivery d rest s) i = handlerOf s i := rfl

@[simp] theorem storeOf_takeDelivery (i : Instr) : storeOf i (takeDelivery d rest s) = storeOf i s := by
  cases i <;> rfl

@[simp] theorem storeOf_deliver (i : Instr) : storeOf i (s.deliver d) = storeOf i s := by
  cases i <;> rfl

/-! ### The register table's form -/

variable {s}

theorem exec_wf {i : Instr} {t : State} (hs : Memory.wf s) (h : exec i s = .next t) : Memory.wf t := by
  obtain ⟨h1, h2, h3⟩ := hs
  have c := exec_keepsConfiguration h
  refine ⟨?_, ?_, ?_⟩ <;> rw [c.params]
  · rw [(exec_keepsData h).table]
    split <;> simpa using h1
  · rcases c.flags with e | ⟨_, _, _, _, e⟩ <;> rw [e] <;> simpa using h2
  · rcases c.handlers with e | ⟨_, _, _, _, e⟩ <;> rw [e] <;> simpa using h3

theorem step_wf {t : State} (hs : Memory.wf s) (h : step s = .next t) : Memory.wf t := by
  rcases step_next h with ⟨-, -, rfl⟩ | ⟨d, rest, i, u, -, -, -, hu, rfl⟩ | ⟨d, rest, r, -, -, -, rfl⟩
  · exact hs
  · exact finishStep_wf (exec_wf (s := takeDelivery d rest s) hs hu)
  · exact finishStep_wf hs

end Sys2Proof.Machine
end

