-- ==== Sys2Proof/Tests/Slice0.lean ====
section
/-! SUPPORT. The model's own tests. Expected values come from spec/: the encodings of 30_encoding.md R86, the vectors of
95_test_vectors.md (named in each comment), and hand calculation from the rules. Then one witness for each statement
that has hypotheses. -/

namespace Sys2Proof.Tests

open Sys2Proof Sys2Proof.Machine

/-! ### States -/

/-- The RUN state of 95_test_vectors.md: reset, then ENABLE, without its record. -/
def running : State := { State.reset with mode := .run }

/-- A RUN state in DataPhase with a reception request outstanding. -/
def inData (target : Byte) (count : Fin 5) (pending : Word) : State :=
  { running with phase := .data, target := target, count := count, pending := pending, rxArmed := true }

/-- The same with handler 9 on register 5 and register 31, and register 31 read-only with value 7. -/
def inDataHandled (target : Byte) (count : Fin 5) (pending : Word) : State :=
  { inData target count pending with
    cb := (List.replicate 32 0).set 5 9 |>.set 31 9
    ro := (List.replicate 32 false).set 31 true
    reg := (List.replicate 32 0).set 31 7 }

/-- What a result leaves in one aspect; `none` where the step stopped. -/
def after {α : Type} (r : Host.Outcome State Fault Refusal) (f : State → α) : Option α :=
  match r with
  | .next s => some (f s)
  | .fault _ => none
  | .refused _ => none

/-- The transaction context and monitor, as 95_test_vectors.md writes it. -/
structure Ctx where
  phase : Phase
  target : Byte
  count : Nat
  pending : Word
  rxArmed : Bool
  deriving DecidableEq, Repr

/-- The transaction context and monitor of a state. -/
def ctx (s : State) : Ctx := ⟨s.phase, s.target, s.count.val, s.pending, s.rxArmed⟩

/-! ### Decoding: words written out from R86, R91 and 95_test_vectors.md -/

theorem test_decode_addrW : decode 0b0000000100000000000000000000000000000000000000000000000000000000 = .event .addrW := by
  decide

theorem test_decode_addrR : decode 0b0000000100000001000000000000000000000000000000000000000000000000 = .event .addrR := by
  decide

/-- S4 step 3. -/
theorem test_decode_rxc : decode 0x02AA000000000000 = .event (.rxc 0xAA) := by decide

theorem test_decode_listen : decode 0x0300000000000000 = .event .listen := by decide

/-- T32. -/
theorem test_decode_err : decode 0x047F000000000000 = .event (.err 0x7F) := by decide

/-- T2. -/
theorem test_decode_setro : decode 0x1000001F80000001 = .event (.setro 31 0x80000001) := by decide

/-- T42. -/
theorem test_decode_setcb : decode 0x1100002800000030 = .event (.setcb 40 0x30) := by decide

theorem test_decode_enable : decode 0x1200000000000000 = .event .enable := by decide

/-- S2 step 5. -/
theorem test_decode_aread : decode 0x2000FFFF00000000 = .event (.aread 0xFFFF) := by decide

/-- T47 to T56. -/
theorem test_decode_reserved :
    [0x0000000000000000, 0xFF00000000000000, 0x0500000000000000, 0x0102000000000000, 0x0100000000000001,
      0x0201000100000000, 0x0300000100000000, 0x1001000000000000, 0x1201000000000000,
      0x2000000100000001].map decode =
    [.reserved .unassignedOp, .reserved .unassignedOp, .reserved .unassignedOp, .reserved .badDirection,
      .reserved .unusedField, .reserved .unusedField, .reserved .unusedField, .reserved .unusedField,
      .reserved .unusedField, .reserved .unusedField] := by decide

theorem test_decodeTableWord : decodeTableWord 64 0x0401000000000000 = some (.err 1) := by decide

theorem test_decodeTableWord_short : decodeTableWord 32 0x0401000000000000 = none := by decide

/-! ### Well-formedness of written operands (R91, R92): each check refuses an ill-formed line -/

theorem test_wf_rxc : (Asm.rxc 255).wf = true ∧ (Asm.rxc 256).wf = false := by decide

theorem test_wf_err : (Asm.err 255).wf = true ∧ (Asm.err 256).wf = false := by decide

theorem test_wf_setro :
    (Asm.setro 65535 0xFFFFFFFF).wf = true ∧ (Asm.setro 65536 0).wf = false ∧
      (Asm.setro 0 0x100000000).wf = false := by decide

theorem test_wf_setcb : (Asm.setcb 65536 0).wf = false ∧ (Asm.setcb 0 0x100000000).wf = false := by decide

theorem test_wf_aread : (Asm.aread 65535).wf = true ∧ (Asm.aread 65536).wf = false := by decide

theorem test_wf_write32 : (Asm.write32 256 0).wf = false ∧ (Asm.write32 0 0x100000000).wf = false := by decide

theorem test_wf_writeShort :
    (Asm.writeShort 7 [1, 2, 3]).wf = true ∧ (Asm.writeShort 7 []).wf = false ∧
      (Asm.writeShort 7 [1, 2, 3, 4]).wf = false ∧ (Asm.writeShort 7 [256]).wf = false ∧
      (Asm.writeShort 256 [1]).wf = false := by decide

theorem test_wf_setptr : (Asm.setptr 255).wf = true ∧ (Asm.setptr 256).wf = false := by decide

theorem test_wf_read32At : (Asm.read32At 255).wf = true ∧ (Asm.read32At 256).wf = false := by decide

/-! ### Single steps -/

/-- T11: a partial write is discarded. -/
theorem test_addrW_restarts : after (exec .addrW (inData 9 2 0x2211)) ctx = some ⟨.address, 9, 0, 0, true⟩ := by decide

/-- T58: refused in CONFIG. -/
theorem test_addrW_config :
    after (exec .addrW .reset) (fun s => (s.refused, s.refuseCode, s.refuseWord)) =
      some (true, 3, 0x0100000000000000) := by decide

/-- S6. -/
theorem test_addrR_transmits :
    after (exec .addrR { running with target := 3, reg := (List.replicate 32 0).set 3 0x12345678 }) State.outputs =
      some [.reqTx 0x78 0x56 0x34 0x12] := by decide

/-- T15: the sentinel. -/
theorem test_addrR_sentinel :
    after (exec .addrR { running with target := 255 }) State.outputs = some [.reqTx 0xFF 0xFF 0xFF 0xFF] := by decide

/-- T21: lane 2, then the request for the fourth byte is LAST. -/
theorem test_rxc_third_byte :
    after (exec (.rxc 0x34) (inData 5 2 0x5678)) (fun s => (ctx s, s.outputs)) =
      some (⟨.data, 5, 3, 0x345678, true⟩, [.reqRx .lane3 .last]) := by decide

/-- T22: the fourth byte stores; no request follows. -/
theorem test_rxc_fourth_byte :
    after (exec (.rxc 0x12) (inData 5 3 0x345678)) (fun s => (ctx s, memRead s 5, s.outputs)) =
      some (⟨.idle, 5, 0, 0, false⟩, 0x12345678, []) := by decide

/-- T34: no data byte, nothing salvaged. -/
theorem test_err_nack_empty :
    after (exec (.err 1) (inDataHandled 5 0 0)) (fun s => (memRead s 5, s.outputs)) = some (0, [.reqListen]) := by decide

/-- T31: three lanes salvaged; the callback precedes REQ_LISTEN (S4). -/
theorem test_err_nack_salvages :
    after (exec (.err 1) (inDataHandled 5 3 0x332211)) (fun s => (ctx s, memRead s 5, s.outputs)) =
      some (⟨.idle, 5, 0, 0, false⟩, 0x332211, [.callback 5 9, .reqListen]) := by decide

/-- R116: a handler's reads are answered after the store and before REQ_LISTEN; out of bounds it reads the sentinel. -/
theorem test_err_handler_reads :
    after (exec (.err 1) { inDataHandled 5 3 0x332211 with handlerReads := [5, 31, 32] }) State.outputs =
      some [.callback 5 9, .appData 0x332211, .appData 7, .appData 0xFFFFFFFF, .reqListen] := by decide

/-- R116: for a read-only register the handler sees the unchanged value. -/
theorem test_rxc_handler_reads_readOnly :
    after (exec (.rxc 0x12) { inDataHandled 31 3 0x345678 with handlerReads := [31] }) State.outputs =
      some [.callback 31 9, .appData 7] := by decide

/-- T36. -/
theorem test_listen_keeps_write :
    after (exec .listen (inData 1 1 0x99)) (fun s => (ctx s, s.outputs)) =
      some (⟨.data, 1, 1, 0x99, false⟩, [.reqListen]) := by decide

/-- T2. -/
theorem test_setro_last_register :
    after (exec (.setro 31 0x80000001) .reset) (fun s => (memRead s 31, isReadOnly s 31, isReadOnly s 30)) =
      some (0x80000001, true, false) := by decide

/-- T40. -/
theorem test_setro_run :
    after (exec (.setro 1 1) running) (fun s => (s.refuseCode, memRead s 1, isReadOnly s 1)) = some (4, 0, false) := by
  decide

/-- T4: detaching. -/
theorem test_setcb_detaches :
    after (exec (.setcb 4 0) { State.reset with cb := (List.replicate 32 0).set 4 7 }) (handlerOf · 4) = some 0 := by
  decide

/-- T38. -/
theorem test_enable : after (exec .enable .reset) (fun s => (s.mode, s.outputs)) = some (.run, [.reqListen]) := by decide

/-- S2 step 4. -/
theorem test_aread_sentinel : after (exec (.aread 32) .reset) State.outputs = some [.appData 0xFFFFFFFF] := by decide

/-- T46: a declared read waits. -/
theorem test_aread_declared :
    after (exec (.aread 5) { running with concurrent := true }) (fun s => (s.torn, s.outputs)) = some ([5], []) := by
  decide

/-- T7: the store is skipped, the callback fires. -/
theorem test_memWrite_readOnly :
    after (memWrite 31 0x04030201 (inDataHandled 31 0 0)) (fun s => (memRead s 31, s.outputs)) =
      some (7, [.callback 31 9]) := by decide

/-- T57: the mode check comes before the armed check. -/
theorem test_step_refusal_priority :
    after (step (State.reset.withFetchWord 64 0x0205000000000000))
      (fun s => (s.refused, s.refuseCode, s.refuseWord, s.outputs)) = some (true, 3, 0x0205000000000000, []) := by decide

/-- T61: decoding comes before the mode check. -/
theorem test_step_reserved_first :
    after (step (running.withFetchWord 64 0x1101000000000000)) State.refuseCode = some 1 := by decide

/-- T62. -/
theorem test_step_stuck : after (step { running with refused := true }) State.refused = none := by decide

/-- T46: with the draw written as a mask, the two values mix per lane. -/
theorem test_mixLanes : mixLanes 0b0110 0x11111111 0x22222222 = 0x11222211 := by decide

/-- S4's expansion (R92) and R91's text. -/
theorem test_assemble_text :
    assembleText ["WRITESHORT 7, 0xAA, 0xBB ; S4", "", "ERR OTHER"] =
      some [0x0100000000000000, 0x0207000000000000, 0x02AA000000000000, 0x02BB000000000000, 0x0401000000000000,
        0x0400000000000000] := by decide

/-- A line that is none of R91's. -/
theorem test_assemble_bad_line : assembleText ["RXC 0xG1"] = none ∧ assembleText ["RXC 256"] = none := by decide

/-- P4 step 1 and R217: a run of one event is good. -/
theorem test_run_good : (run [0x1200000000000000]).good = true := by decide

/-! ### Witnesses: each statement's hypotheses are met by a concrete state and operands -/

theorem witness_ResetLeavesSpecValues : ∃ (p : Params) (i : Nat), i < p.regCount := ⟨{}, 31, by decide⟩

theorem witness_ExactlyReservedWordsAreRefused :
    ∃ (s : State) (d : Delivery) (rest : List Delivery) (r : Reserved),
      s.refused = false ∧ s.inbox = d :: rest ∧ s.torn = [] ∧ decode d.word = .reserved r :=
  ⟨running.withFetchWord 64 0x0102000000000000, _, _, .badDirection, by decide, rfl, by decide, by decide⟩

theorem witness_StepRunsDecodedEvent :
    ∃ (s : State) (d : Delivery) (rest : List Delivery) (i : Instr),
      s.refused = false ∧ s.inbox = d :: rest ∧ decode d.word = .event i :=
  ⟨running.withFetchWord 64 0x0300000000000000, _, _, .listen, by decide, rfl, by decide⟩

theorem witness_UndeclaredStepIsExec :
    ∃ (s : State) (d : Delivery) (rest : List Delivery) (i : Instr),
      s.refused = false ∧ s.inbox = d :: rest ∧ decode d.word = .event i ∧ s.torn = [] ∧ d.concurrent = false ∧
        d.handlerReads = [] :=
  ⟨running.withFetchWord 64 0x0300000000000000, _, _, .listen, by decide, rfl, by decide, by decide, by decide,
    by decide⟩

theorem witness_FetchWordRunsNext : ∃ s : State, s.refused = false ∧ s.torn = [] := ⟨running, by decide⟩

theorem witness_RefusedInstanceIsStuck : ∃ s : State, s.refused = true := ⟨{ running with refused := true }, rfl⟩

theorem witness_MachineNeverHalts : ∃ s : State, s.params.callbackMayHang = false ∧ s.refused = false :=
  ⟨running, by decide⟩

/-- One witness for each cause, and one where none applies. -/
theorem witness_FirstRefusalCauseIsReported :
    firstRefusal 0x1101000000000000 running = some .reserved ∧
    firstRefusal 0x0205000000000000 .reset = some .busInConfig ∧
    firstRefusal 0x1200000000000000 running = some .setupInRun ∧
    firstRefusal 0x0205000000000000 running = some .rxUnarmed ∧
    firstRefusal 0x0300000000000000 running = none ∧
    (running.withFetchWord 64 0x0300000000000000).refused = false ∧
    (∃ t, step (running.withFetchWord 64 0x0300000000000000) = .next t) :=
  ⟨by decide, by decide, by decide, by decide, by decide, by decide, _, rfl⟩

/-- A step that is refused, one that is not, and a refused instance. -/
theorem witness_RefusalMarksAreSticky :
    (∃ t, step (State.reset.withFetchWord 64 0x0205000000000000) = .next t ∧ t.refused = true) ∧
    (∃ t, step (running.withFetchWord 64 0x0300000000000000) = .next t ∧ t.refused = false) ∧
    ∃ s : State, s.refused = true :=
  ⟨⟨_, rfl, rfl⟩, ⟨_, rfl, rfl⟩, { running with refused := true }, rfl⟩

/-- The clause of EnableEntersRun on the transaction context. -/
theorem witness_EnableEntersRun :
    ∃ s t : State, s.mode = .config ∧ s.phase = .idle ∧ s.target = 0 ∧ exec .enable s = .next t :=
  ⟨.reset, _, rfl, rfl, rfl, rfl⟩

theorem witness_BusEventsAreRefusedInConfig :
    ∃ (i : Instr) (s : State), s.mode = .config ∧ isBusEvent i = true := ⟨.rxc 5, .reset, by decide⟩

theorem witness_SetupEventsAreRefusedInRun :
    ∃ (i : Instr) (s : State), s.mode = .run ∧ isSetupEvent i = true := ⟨.setro 1 1, running, by decide⟩

/-- Both modes, for the statements with one clause for each: AddressMatchWriteStartsTransaction,
AddressMatchReadTransmitsTarget, ListenOnlyRearms, EnableEntersRun. -/
theorem witness_both_modes : (∃ s : State, s.mode = .config) ∧ ∃ s : State, s.mode = .run :=
  ⟨⟨.reset, rfl⟩, ⟨running, rfl⟩⟩

theorem witness_ReceiveCompleteDispatches :
    (∃ s : State, s.mode = .config) ∧
    (∃ s : State, s.mode = .run ∧ (s.rxArmed = false ∨ s.phase = .idle)) ∧
    (∃ s : State, s.mode = .run ∧ s.rxArmed = true ∧ s.phase = .address) ∧
    (∃ s : State, s.mode = .run ∧ s.rxArmed = true ∧ s.phase = .data) :=
  ⟨⟨.reset, rfl⟩, ⟨running, by decide⟩, ⟨{ running with phase := .address, rxArmed := true }, by decide⟩,
    ⟨inData 5 0 0, by decide⟩⟩

theorem witness_DataByteAccumulatesThenWrites :
    ∀ n : Fin 4, let s := inData 5 ⟨n.val, by omega⟩ 0
      s.mode = .run ∧ s.rxArmed = true ∧ s.phase = .data ∧ s.count.val = n.val := by decide

/-- An index in bounds with a handler, one read-only, and one out of bounds. -/
theorem witness_FourthByteStoresAndInvokes :
    ∀ s ∈ [inDataHandled 5 3 0x345678, inDataHandled 31 3 0x345678, inData 32 3 0x345678],
      s.mode = .run ∧ s.rxArmed = true ∧ s.phase = .data ∧ s.count = 3 ∧ s.params.callbackMayHang = false := by decide

theorem witness_ErrorResetsAndRearms :
    (∃ s : State, s.mode = .config) ∧
    (∃ (k : Byte) (s : State), s.mode = .run ∧ ¬ (k = 0x01 ∧ s.phase = .data ∧ 1 ≤ s.count.val)) ∧
    (∃ (k : Byte) (s u : State), s.mode = .run ∧ (k = 0x01 ∧ s.phase = .data ∧ 1 ≤ s.count.val) ∧
      memWrite s.target.toNat s.pending s = .next u) :=
  ⟨⟨.reset, rfl⟩, ⟨1, inData 5 0 0, by decide⟩, ⟨1, inDataHandled 5 1 0x11, _, by decide, by decide, rfl⟩⟩

theorem witness_NackSalvagesPartialWrite :
    (∀ s ∈ [inDataHandled 5 1 0x11, inDataHandled 31 3 0x332211, inData 200 1 1],
      s.mode = .run ∧ s.phase = .data ∧ s.params.callbackMayHang = false ∧ 1 ≤ s.count.val ∧ s.count.val ≤ 3) ∧
    (∃ s : State, s.mode = .run ∧ s.phase = .data ∧ s.params.callbackMayHang = false ∧ s.count = 0) :=
  ⟨by decide, inDataHandled 5 0 0, by decide⟩

theorem witness_OtherErrorsNeverWrite : ∃ (k : Byte) (s : State), s.mode = .run ∧ k ≠ 0x01 :=
  ⟨0, inData 9 1 0x11, by decide⟩

/-- SetroMakesRegisterReadOnly and SetcbReplacesHandler: the last index in bounds, the first out of bounds, RUN. -/
theorem witness_setup_events :
    (State.reset.mode = .config ∧ (31 : Index).toNat < State.reset.params.regCount) ∧
    (State.reset.mode = .config ∧ State.reset.params.regCount ≤ (32 : Index).toNat) ∧ running.mode = .run := by decide

theorem witness_ApplicationReadReplies :
    (∃ s : State, s.params.tornReads = false) ∧ ∃ s : State, s.concurrent = false :=
  ⟨⟨.resetWith { tornReads := false }, rfl⟩, ⟨.reset, rfl⟩⟩

/-- T46: the concurrent step is the fourth byte of a write to the register read. -/
theorem witness_TornReadMixesLanesAcrossStep :
    ∃ (s t : State) (i : Index) (x : Instr) (reads : List Index),
      s.Ready ∧ s.params.tornReads = true ∧ exec x { s with torn := [i], handlerReads := reads } = .next t ∧
        memRead t i.toNat ≠ memRead s i.toNat :=
  ⟨inDataHandled 5 3 0x222222, _, 5, .rxc 0x22, [5], ⟨by decide, by decide, by decide, by decide, by decide⟩, by decide,
    rfl, by decide⟩

theorem witness_MemReadAnswersRegisterOrSentinel :
    (Memory.wf .reset ∧ 31 < State.reset.params.regCount) ∧ State.reset.params.regCount ≤ 32 := by decide

/-- The clauses of MemWriteFollowsAccessPolicy: out of bounds; writable and read-only, with and without a handler. -/
theorem witness_MemWriteFollowsAccessPolicy :
    let s := inDataHandled 5 0 0
    let t := { s with cb := List.replicate 32 0 }
    s.params.callbackMayHang = false ∧ t.params.callbackMayHang = false ∧ s.handlerReads = [] ∧ s.params.regCount ≤ 32 ∧
    31 < s.params.regCount ∧ isReadOnly s 0 = false ∧ handlerOf s 0 = 0 ∧ isReadOnly s 5 = false ∧ handlerOf s 5 ≠ 0 ∧
    isReadOnly s 31 = true ∧ handlerOf s 31 ≠ 0 ∧ isReadOnly t 31 = true ∧ handlerOf t 31 = 0 := by decide

/-- A declared read of a register that is stored to, of a read-only one, and none. -/
theorem witness_MemWriteServesHandlerReads :
    let s := { inDataHandled 5 0 0 with handlerReads := [5, 6, 40] }
    s.params.callbackMayHang = false ∧ Memory.wf s ∧ isReadOnly s 5 = false ∧ handlerOf s 5 ≠ 0 ∧
      isReadOnly s 31 = true ∧ handlerOf s 31 ≠ 0 ∧ handlerOf s 0 = 0 := by decide

/-- The fourth byte, and the salvage of one byte and of three, of a writable and of a read-only register. -/
theorem witness_HandlerReadsSeeTheStore :
    ∀ s ∈ [inDataHandled 5 3 0x345678, inDataHandled 31 3 0x345678, inDataHandled 5 1 0x78],
      s.refused = false ∧ s.inbox = [] ∧ s.torn = [] ∧ s.concurrent = false ∧ s.handlerReads = [] ∧ Memory.wf s ∧
        s.mode = .run ∧ s.phase = .data ∧ s.params.callbackMayHang = false ∧ s.target.toNat < s.params.regCount ∧
        handlerOf s s.target.toNat ≠ 0 ∧ s.rxArmed = true ∧ 1 ≤ s.count.val ∧ s.count.val ≤ 3 := by decide

theorem witness_HangingHandlerStopsTheStep :
    let s := { inDataHandled 5 3 0x345678 with params := { callbackMayHang := true } }
    s.params.callbackMayHang = true ∧ 5 < s.params.regCount ∧ handlerOf s 5 ≠ 0 ∧ handlerOf s 0 = 0 ∧
    s.params.regCount ≤ 32 ∧ s.target.toNat = 5 ∧ s.mode = .run ∧ s.phase = .data ∧ s.rxArmed = true ∧ s.count = 3 := by
  decide

theorem witness_ReadOnlyMaskHoldsFlags : ∃ (s : State) (i : Nat), i < s.params.regCount ∧ Memory.wf s :=
  ⟨inDataHandled 5 0 0, 31, by decide⟩

/-- EventsStoreOnlyWhereThePolicySays: an event that stores, and one that does not. -/
theorem witness_EventsStoreOnlyWhereThePolicySays :
    (∃ (i : Instr) (s t : State) (a : Nat) (v : Word),
      exec i s = .next t ∧ storeOf i s = some (a, v) ∧ Memory.wf s) ∧
    (∃ (i : Instr) (s t : State), exec i s = .next t ∧ storeOf i s = none) :=
  ⟨⟨.rxc 0x12, inData 5 3 0x345678, _, 5, 0x12345678, rfl, by decide, by decide⟩,
    ⟨.rxc 0x12, inDataHandled 31 3 0x345678, _, rfl, by decide⟩⟩

theorem witness_OnlySetroSetsReadOnlyFlags :
    ∃ (i : Instr) (s t : State) (j : Nat), exec i s = .next t ∧ isReadOnly s j = false ∧ isReadOnly t j = true :=
  ⟨.setro 31 1, .reset, _, 31, rfl, by decide, by decide⟩

theorem witness_OnlySetcbWritesHandlers :
    ∃ (i : Instr) (s t : State) (j : Nat), exec i s = .next t ∧ handlerOf t j ≠ handlerOf s j :=
  ⟨.setcb 31 1, .reset, _, 31, rfl, by decide⟩

theorem witness_OnlyIndexByteWritesTarget :
    ∃ (b : Byte) (s t : State), exec (.rxc b) s = .next t ∧ s.mode = .run ∧ s.rxArmed = true ∧ s.phase = .address ∧
      t.target ≠ s.target :=
  ⟨0xFF, { running with phase := .address, rxArmed := true }, _, rfl, by decide, by decide, by decide, by decide⟩

theorem witness_OnlyEnableChangesMode : ∃ (i : Instr) (s t : State), exec i s = .next t ∧ t.mode ≠ s.mode :=
  ⟨.enable, .reset, _, rfl, by decide⟩

theorem witness_CallbacksComeOnlyFromMemWrite :
    ∃ (i : Instr) (s t : State), exec i s = .next t ∧ t.outputs = s.outputs ++ [.callback 5 9] :=
  ⟨.rxc 0x12, inDataHandled 5 3 0x345678, _, rfl, by decide⟩

theorem witness_ReadsSeeOnlyRegisters :
    (∃ s t s' t' : State, s.mode = .run ∧ t.mode = .run ∧ s ≠ t ∧
      memRead s s.target.toNat = memRead t t.target.toNat ∧
      exec .addrR s = .next s' ∧ exec .addrR t = .next t') ∧
    (∃ (i : Index) (s t s' t' : State), readsTorn s = false ∧ readsTorn t = false ∧ s ≠ t ∧
      memRead s i.toNat = memRead t i.toNat ∧ exec (.aread i) s = .next s' ∧ exec (.aread i) t = .next t') :=
  ⟨⟨running, inDataHandled 5 2 3, _, _, by decide, by decide, by decide, by decide, rfl, rfl⟩,
    ⟨5, running, inDataHandled 5 2 3, _, _, by decide, by decide, by decide, by decide, rfl, rfl⟩⟩

theorem witness_ResetMeetsInvariants : ∃ p : Params, p.legal := ⟨{}, by decide⟩

theorem witness_EveryStepKeepsInvariants : ∃ s t : State, s.Inv ∧ step s = .next t ∧ t.inbox ≠ s.inbox := by
  refine ⟨(State.resetWith { regCount := 1 }).withFetchWord 64 0x1200000000000000, _, ?_, rfl, by decide⟩
  constructor
  · decide
  · decide
  · intro _
    decide
  · intro h
    cases h
  · intro h
    cases h
  · intro h
    cases h
  · intro _
    decide
  · intro _
    decide
  · intro h
    cases h

theorem witness_ReadOnlyRegistersNeverChangeInRun :
    ∃ (s : State) (i : Nat), s.mode = .run ∧ isReadOnly s i = true := ⟨inDataHandled 31 3 0, 31, by decide⟩

theorem witness_ConfigurationIsFrozenInRun : ∃ s : State, s.mode = .run := ⟨running, rfl⟩

/-- After a run that stores twice to the last register (fourth byte, then a salvage) the mode is RUN, the register is
the target, and no read is torn. -/
theorem witness_ReadsAnswerTheLastStore :
    let s := inData 31 3 0x345678
    let ds := deliveries [0x0212000000000000, 0x0100000000000000, 0x021F000000000000, 0x02AA000000000000,
      0x0401000000000000]
    Memory.wf s ∧ s.inbox = [] ∧ 31 < s.params.regCount ∧ runStores s ds = [(31, 0x12345678), (31, 0xAA)] ∧
      (runFrom s ds).mode = .run ∧ (runFrom s ds).target.toNat = 31 ∧ readsTorn (runFrom s ds) = false := by decide

theorem witness_PrefixesOfGoodRunsAreGood :
    ∃ (s : State) (ds es : List Delivery), es ≠ [] ∧ (runFrom s (ds ++ es)).good = true :=
  ⟨running, [{ word := 0x0300000000000000 }], [{ word := 0x0100000000000000 }], by decide, by decide⟩

/-- The first of two instances steps and changes: LISTEN in RUN. -/
theorem witness_StepOfOneInstanceKeepsTheOthers :
    ∃ (k j : Nat) (m m' : List State) (s t : State), stepOne k m = .next m' ∧ j ≠ k ∧ j < m.length ∧
      m[k]? = some s ∧ step s = .next t ∧ t ≠ s :=
  ⟨0, 1, [running.withFetchWord 64 0x0300000000000000, .reset], _, _, _, rfl, by decide, by decide, rfl, rfl,
    by decide⟩

/-- The hypotheses of FullWriteTransaction, PointerThenReadTransmits, ReadInsideWriteThenNackSalvages and
FifthByteIsRefused. -/
theorem witness_transactions : ∃ s : State, s.Ready ∧ s.mode = .run ∧ s.params.callbackMayHang = false :=
  ⟨running, ⟨by decide, by decide, by decide, by decide, by decide⟩, by decide, by decide⟩

/-- ShortWriteTransaction and ListenKeepsPartialWriteForSalvage: the shortest and the longest short write. -/
theorem witness_short_writes :
    ∀ bytes ∈ [[(0xAA : Byte)], [0xAA, 0xBB, 0xCC]], 1 ≤ bytes.length ∧ bytes.length ≤ 3 := by decide

/-- AbandonedWriteStoresNothing: each of its three endings. -/
theorem witness_AbandonedWriteStoresNothing :
    (∃ (bytes : List Byte) (e : Instr), bytes.length = 3 ∧ e = .addrW) ∧
    (∃ (bytes : List Byte) (e : Instr), bytes.length = 3 ∧ ∃ k, k ≠ 0x01 ∧ e = .err k) ∧
    (∃ (bytes : List Byte) (e : Instr), bytes = [] ∧ ∃ k, e = .err k) :=
  ⟨⟨[1, 2, 3], .addrW, rfl, rfl⟩, ⟨[1, 2, 3], .err 0, rfl, 0, by decide, rfl⟩, ⟨[], .err 1, rfl, 1, rfl⟩⟩

theorem witness_AssembledWordsDecodeToTheirEvents :
    ∃ (lines : List Asm) (ws : List EventWord), assemble lines = some ws ∧ ws ≠ [] :=
  ⟨[.write32 255 0xFFFFFFFF], _, rfl, by decide⟩

theorem witness_Write32WritesItsValue : (Asm.write32 255 0xFFFFFFFF).wf = true := by decide

end Sys2Proof.Tests
end

/-! SUPPORT and PROOFS of the family 10_state.md: which events are refused, what becomes of the three refusal marks
(10_state.md R38, 60_exceptions.md R201 to R203), the read-only flags (R22, R23) and the reset state (R42). -/

namespace Sys2Proof.Machine

/-! ### The word of a decoded event -/

theorem whenZero_eq_event {z : Bool} {i j : Instr} : whenZero z i = .event j ↔ z = true ∧ i = j := by
  cases z <;> simp [whenZero]

/-- Decoding loses nothing: a word that decodes is the word of its event (30_encoding.md R86). -/
theorem encode_of_decode {w : EventWord} {i : Instr} (h : decode w = .event i) : encode i = w := by
  rw [← pack_fields w]
  simp only [decode] at h
  split_ifs at h with hop hzero hdir hdir hop hop hop hop hop hop hop
  · cases h
    simp only [encode, hop, hdir, hzero]
  · cases h
    simp only [encode, hop, hdir, hzero]
  all_goals
    obtain ⟨hzero, rfl⟩ := whenZero_eq_event.mp h
    simp only [decide_eq_true_eq] at hzero
    simp only [encode, hop, hzero]

/-! ### Which events are refused -/

theorem exec_busEvent_config {i : Instr} {s : State} (hi : isBusEvent i = true) (hm : s.mode = .config) :
    exec i s = .next (s.setRefusal RefuseCause.busInConfig.code (encode i)) := by
  cases i with
  | addrW | addrR | rxc | listen | err =>
    simp only [exec, execAddrW, execAddrR, execRxc, execListen, execErr, busPre_config hm, RefuseCause.code]
  | setro | setcb | enable | aread => cases hi

theorem exec_setupEvent_run {i : Instr} {s : State} (hi : isSetupEvent i = true) (hm : s.mode = .run) :
    exec i s = .next (s.setRefusal RefuseCause.setupInRun.code (encode i)) := by
  cases i with
  | setro | setcb | enable =>
    simp only [exec, execSetro, execSetcb, execEnable, setupPre_run hm, RefuseCause.code]
  | addrW | addrR | rxc | listen | err | aread => cases hi

theorem exec_receivesUnarmed {i : Instr} {s : State} (hi : receivesUnarmed i s = true) (hm : s.mode = .run) :
    exec i s = .next (s.setRefusal RefuseCause.rxUnarmed.code (encode i)) := by
  cases i with
  | rxc b =>
    rw [exec, execRxc, busPre_run hm]
    cases ha : s.rxArmed with
    | false => rfl
    | true =>
      have hp : s.phase = .idle := by simpa [receivesUnarmed, ha] using hi
      simp [hp, refuse_eq]
  | addrW | addrR | listen | err | setro | setcb | enable | aread => cases hi

/-- Only a bus event can be an unarmed receive. -/
theorem isBusEvent_of_receivesUnarmed {i : Instr} {s : State} (h : receivesUnarmed i s = true) :
    isBusEvent i = true := by
  cases i with
  | rxc => rfl
  | addrW | addrR | listen | err | setro | setcb | enable | aread => cases h

/-- An event with a refusal cause is refused for the first one, and nothing but the three marks is written. -/
theorem exec_refuses {w : EventWord} {i : Instr} {s : State} {c : RefuseCause} (hd : decode w = .event i)
    (hf : firstRefusal w s = some c) : exec i s = .next (s.setRefusal c.code w) := by
  rw [← encode_of_decode hd]
  simp only [firstRefusal, hd] at hf
  split_ifs at hf with hbus hsetup hrx <;> cases hf
  · exact exec_busEvent_config hbus.1 hbus.2
  · exact exec_setupEvent_run hsetup.1 hsetup.2
  · refine exec_receivesUnarmed hrx ?_
    cases hm : s.mode with
    | config => exact absurd ⟨isBusEvent_of_receivesUnarmed hrx, hm⟩ hbus
    | run => rfl

/-! ### Where the marks stay -/

/-- The three refusal marks are the same in both states (R38). -/
structure KeepsMarks (s t : State) : Prop where
  refused : t.refused = s.refused
  refuseCode : t.refuseCode = s.refuseCode
  refuseWord : t.refuseWord = s.refuseWord

theorem memWrite_keepsMarks {s t : State} {a : Nat} {v : Word} (h : memWrite a v s = .next t) : KeepsMarks s t := by
  rw [memWrite_next h]
  exact ⟨rfl, rfl, rfl⟩

theorem dataByte_keepsMarks {b : Byte} {s t : State} (h : dataByte b s = .next t) : KeepsMarks s t := by
  by_cases hc : s.count.val + 1 < 4
  · rw [dataByte_notLast hc] at h
    cases h
    exact ⟨rfl, rfl, rfl⟩
  · rw [dataByte_last (by omega)] at h
    obtain ⟨hmark, hcode, hword⟩ := memWrite_keepsMarks h
    exact ⟨hmark, hcode, hword⟩

theorem salvage_keepsMarks {k : Byte} {s t : State} (h : salvage k s = .next t) : KeepsMarks s t := by
  unfold salvage at h
  split at h
  · exact memWrite_keepsMarks h
  · cases h
    exact ⟨rfl, rfl, rfl⟩

theorem finishStep_keepsMarks (before after : State) : KeepsMarks after (finishStep before after) := by
  obtain ⟨os, n, is, e⟩ := finishStep_eq before after
  rw [e]
  exact ⟨rfl, rfl, rfl⟩

/-- A bus event in RUN that is no unarmed receive writes no mark. -/
theorem exec_busEvent_keepsMarks {i : Instr} {s t : State} (hi : isBusEvent i = true) (hm : s.mode = .run)
    (hu : receivesUnarmed i s = false) (h : exec i s = .next t) : KeepsMarks s t := by
  cases i with
  | addrW =>
    rw [exec, execAddrW, busPre_run hm] at h
    cases h
    exact ⟨rfl, rfl, rfl⟩
  | addrR =>
    rw [exec, execAddrR, busPre_run hm] at h
    cases h
    exact ⟨rfl, rfl, rfl⟩
  | listen =>
    rw [exec, execListen, busPre_run hm] at h
    cases h
    exact ⟨rfl, rfl, rfl⟩
  | rxc b =>
    obtain ⟨ha, hp⟩ : s.rxArmed = true ∧ s.phase ≠ .idle := by simpa [receivesUnarmed] using hu
    rw [exec, execRxc, busPre_run hm, if_neg (by simp [ha])] at h
    split at h
    · contradiction
    · rw [indexByte_eq] at h
      cases h
      exact ⟨rfl, rfl, rfl⟩
    · obtain ⟨hmark, hcode, hword⟩ := dataByte_keepsMarks h
      exact ⟨hmark, hcode, hword⟩
  | err k =>
    rw [exec, execErr, busPre_run hm] at h
    obtain ⟨u, hu, ht⟩ := andThen_eq_next.mp h
    cases ht
    obtain ⟨hmark, hcode, hword⟩ := salvage_keepsMarks hu
    exact ⟨hmark, hcode, hword⟩
  | setro | setcb | enable | aread => cases hi

/-- A setup event in CONFIG writes no mark. -/
theorem exec_setupEvent_keepsMarks {i : Instr} {s t : State} (hi : isSetupEvent i = true) (hm : s.mode = .config)
    (h : exec i s = .next t) : KeepsMarks s t := by
  cases i with
  | setro r v =>
    rw [exec, execSetro, setupPre_config hm] at h
    cases h
    unfold setReadOnly
    split <;> exact ⟨rfl, rfl, rfl⟩
  | setcb r v =>
    rw [exec, execSetcb, setupPre_config hm] at h
    cases h
    unfold setCallback
    split <;> exact ⟨rfl, rfl, rfl⟩
  | enable =>
    rw [exec, execEnable, setupPre_config hm] at h
    cases h
    exact ⟨rfl, rfl, rfl⟩
  | addrW | addrR | rxc | listen | err | aread => cases hi

theorem exec_aread_keepsMarks {r : Index} {s t : State} (h : exec (.aread r) s = .next t) : KeepsMarks s t := by
  cases h
  split <;> exact ⟨rfl, rfl, rfl⟩

/-- An event with no refusal cause writes no mark. -/
theorem exec_keepsMarks {w : EventWord} {i : Instr} {s t : State} (hd : decode w = .event i)
    (hf : firstRefusal w s = none) (h : exec i s = .next t) : KeepsMarks s t := by
  simp only [firstRefusal, hd] at hf
  split_ifs at hf with hbus hsetup hrx
  cases hm : s.mode with
  | config =>
    cases i with
    | addrW | addrR | rxc | listen | err => exact absurd ⟨rfl, hm⟩ hbus
    | setro | setcb | enable => exact exec_setupEvent_keepsMarks rfl hm h
    | aread => exact exec_aread_keepsMarks h
  | run =>
    cases i with
    | addrW | addrR | rxc | listen | err => exact exec_busEvent_keepsMarks rfl hm (by simpa using hrx) h
    | setro | setcb | enable => exact absurd ⟨rfl, hm⟩ hsetup
    | aread => exact exec_aread_keepsMarks h

/-! ### The marks through the step of one delivered event -/

/-- A delivered word with a refusal cause: the marks of the first one, written to the state before the event. -/
theorem processEvent_refuses {w : EventWord} {s : State} {c : RefuseCause} (hf : firstRefusal w s = some c) :
    processEvent w s = .next (finishStep s (s.setRefusal c.code w)) := by
  unfold processEvent
  cases hd : decode w with
  | event i => simp only [exec_refuses hd hf, stepEvent, andThen_next]
  | reserved r =>
    simp only [firstRefusal, hd, Option.some.injEq] at hf
    subst hf
    rfl

/-- A delivered word with no refusal cause leaves the marks as they are. -/
theorem processEvent_keepsMarks {w : EventWord} {s t : State} (hf : firstRefusal w s = none)
    (h : processEvent w s = .next t) : KeepsMarks s t := by
  unfold processEvent at h
  cases hd : decode w with
  | event i =>
    simp only [hd, stepEvent] at h
    obtain ⟨u, hu, ht⟩ := andThen_eq_next.mp h
    cases ht
    have before := exec_keepsMarks hd hf hu
    have after := finishStep_keepsMarks s u
    exact ⟨after.refused.trans before.refused, after.refuseCode.trans before.refuseCode,
      after.refuseWord.trans before.refuseWord⟩
  | reserved r => simp [firstRefusal, hd] at hf

/-- The refusal an event meets does not depend on the deliveries. -/
@[simp] theorem firstRefusal_takeDelivery (w : EventWord) (d : Delivery) (rest : List Delivery) (s : State) :
    firstRefusal w (takeDelivery d rest s) = firstRefusal w s := by
  unfold firstRefusal
  cases decode w with
  | event i => cases i <;> rfl
  | reserved r => rfl

/-- A step with a refusal cause ends with the marks of the first one. -/
theorem step_refuses {s : State} {d : Delivery} {rest : List Delivery} {c : RefuseCause} (hr : s.refused = false)
    (hi : s.inbox = d :: rest) (hf : firstRefusal d.word s = some c) :
    ∃ t, step s = .next t ∧ t.refused = true ∧ t.refuseCode = c.code ∧ t.refuseWord = d.word := by
  refine ⟨_, (step_takes hr hi).trans (processEvent_refuses (by simpa using hf)), ?_⟩
  exact ⟨(finishStep_keepsMarks _ _).refused, (finishStep_keepsMarks _ _).refuseCode,
    (finishStep_keepsMarks _ _).refuseWord⟩

/-- A step with no refusal cause leaves the marks as they are. -/
theorem step_keepsMarks {s t : State} {d : Delivery} {rest : List Delivery} (hr : s.refused = false)
    (hi : s.inbox = d :: rest) (hf : firstRefusal d.word s = none) (h : step s = .next t) : KeepsMarks s t := by
  rw [step_takes hr hi] at h
  obtain ⟨hmark, hcode, hword⟩ := processEvent_keepsMarks (by simpa using hf) h
  exact ⟨hmark, hcode, hword⟩

/-- Once `refused` is set, deliveries change nothing. -/
theorem runFrom_refused {s : State} (h : s.refused = true) (ds : List Delivery) : runFrom s ds = s := by
  cases ds with
  | nil => rfl
  | cons d ds => simp [runFrom, step_refused (s := s.deliver d) h]

/-- Settles O12: by the cases of a step (stuck, waiting, a delivery), a delivery by whether its word meets a refusal
cause. -/
theorem refusalMarksAreSticky : Obligations.RefusalMarksAreSticky := by
  refine ⟨fun s t h => ?_, fun s ds hr => ⟨fun t ht => ?_, runFrom_refused hr ds⟩⟩
  · cases hr : s.refused with
    | true =>
      rw [step_refused hr] at h
      cases h
    | false =>
      cases hi : s.inbox with
      | nil =>
        rw [step_waits hr hi] at h
        cases h
        simp [hr]
      | cons d rest =>
        cases hf : firstRefusal d.word s with
        | none =>
          have keeps := step_keepsMarks hr hi hf h
          simp [keeps.refused, keeps.refuseCode, keeps.refuseWord, hr]
        | some c =>
          obtain ⟨u, hu, hmark, hcode, hword⟩ := step_refuses hr hi hf
          cases hu.symm.trans h
          exact ⟨rfl, fun _ => ⟨d, rest, c, rfl, hf, hcode, hword⟩, by simp [hmark]⟩
  · rw [step_refused hr] at ht
    cases ht

/-! ### The read-only flags -/

/-- Bit `i` of the mask is flag `i`, past the last flag too, where both are 0. -/
theorem roMask_getLsbD (s : State) (i : Nat) : (roMask s).getLsbD i = isReadOnly s i :=
  BitVec.getLsbD_ofBoolListLE

/-- Settles O34: the mask is the list of flags, least significant bit first. -/
theorem readOnlyMaskHoldsFlags : Obligations.ReadOnlyMaskHoldsFlags :=
  fun s i _ _ => roMask_getLsbD s i

/-- A table in which one flag has been set: that flag if it exists, and the flags set before. -/
theorem isReadOnly_of_set {s t : State} {a : Nat} (h : t.ro = s.ro.set a true) (j : Nat) :
    isReadOnly t j = true ↔ isReadOnly s j = true ∨ (a = j ∧ j < s.ro.length) := by
  by_cases ha : a = j
  · subst ha
    by_cases hl : a < s.ro.length <;> simp [isReadOnly, h, hl]
  · simp [isReadOnly, h, ha]

/-- Settles O36: `exec` leaves the flags alone or is SETRO in CONFIG and sets its own flag (`KeepsConfiguration`). -/
theorem onlySetroSetsReadOnlyFlags : Obligations.OnlySetroSetsReadOnlyFlags := by
  intro i s t j h
  obtain hro | ⟨r, v, hi, hm, hro⟩ := (exec_keepsConfiguration h).flags
  · have same : isReadOnly t j = isReadOnly s j := by simp only [isReadOnly, hro]
    exact ⟨fun hs => same.trans hs, fun hs ht => by simp [same, hs] at ht, congrArg List.length hro⟩
  · refine ⟨fun hs => (isReadOnly_of_set hro j).mpr (.inl hs), fun hs ht => ?_, by rw [hro, List.length_set]⟩
    obtain hs' | ⟨hj, -⟩ := (isReadOnly_of_set hro j).mp ht
    · simp [hs] at hs'
    · exact ⟨r, v, hi, hj, hm⟩

/-! ### Reset -/

/-- Settles O1: each table is N copies of its reset value, and the other fields hold theirs by definition. -/
theorem resetLeavesSpecValues : Obligations.ResetLeavesSpecValues := by
  refine ⟨fun p i hi => ⟨?_, ?_, ?_⟩, fun p => ⟨rfl, rfl, rfl, rfl, rfl, rfl, rfl, rfl, rfl⟩, rfl⟩
  · exact List.getElem?_replicate_of_lt hi
  · exact List.getElem?_replicate_of_lt hi
  · exact List.getElem?_replicate_of_lt hi

end Sys2Proof.Machine

/-! SUPPORT and PROOFS of the family 20_memory.md: runs of events one `exec` at a time, the state in the middle of a
write (41_transaction.md R141 to R146), and the short write (20_memory.md R64). -/

namespace Sys2Proof.Machine

/-! ### Runs of events, one `exec` at a time -/

/-- The word of an event decodes to it (30_encoding.md R86, R87). -/
theorem decode_encode (i : Instr) : decode (encode i) = .event i := by
  cases i <;> simp [decode, encode, whenZero, fieldOp_pack, fieldB_pack, fieldIdx_pack, fieldV_pack]

/-- An event that is not refused leaves nothing under way around `exec`. -/
theorem ready_of_exec {i : Instr} {s t : State} (hs : s.Ready) (h : exec i s = .next t) (ht : t.refused = false) :
    t.Ready := by
  have keeps := exec_keepsData h
  exact
    { unrefused := ht
      noDelivery := keeps.inbox.trans hs.noDelivery
      noneWaiting := (keeps.torn (by simp [readsTorn, hs.undeclared])).trans hs.noneWaiting
      undeclared := keeps.concurrent.trans hs.undeclared
      noHandlerReads := keeps.handlerReads.trans hs.noHandlerReads }

/-- Delivering an event to a ready state and taking it again leaves that state. -/
theorem takeDelivery_deliver {s : State} (hs : s.Ready) (w : EventWord) :
    takeDelivery { word := w } [] (s.deliver { word := w }) = s := by
  obtain ⟨-, hi, -, hc, hh⟩ := hs
  cases s
  cases hi
  cases hc
  cases hh
  rfl

/-- The end of a step changes nothing in a ready state. -/
theorem finishStep_ready {s t : State} (hs : s.Ready) (ht : t.Ready) : finishStep s t = t := by
  rw [finishStep_none hs.noneWaiting ht.noneWaiting]
  obtain ⟨-, -, -, hc, hh⟩ := ht
  cases t
  cases hc
  cases hh
  rfl

/-- The step of one event delivered to a ready state is `exec` of it, where it goes on unrefused. -/
theorem step_deliver_encode {i : Instr} {s t : State} (hs : s.Ready) (h : exec i s = .next t)
    (ht : t.refused = false) : step (s.deliver { word := encode i }) = .next t := by
  have hin : (s.deliver { word := encode i }).inbox = [{ word := encode i }] := by simp [hs.noDelivery]
  rw [step_takes (s := s.deliver _) hs.unrefused hin, takeDelivery_deliver hs, processEvent]
  simp only [decode_encode, h, stepEvent, andThen_next, finishStep_ready hs (ready_of_exec hs h ht)]

/-- A run from a ready state goes on from where `exec` of its first event leaves it. -/
theorem runEvents_cons {i : Instr} {s t : State} (hs : s.Ready) (h : exec i s = .next t) (ht : t.refused = false)
    (is : List Instr) : runEvents s (i :: is) = runEvents t is := by
  simp only [runEvents, deliveries, List.map_cons, runFrom, step_deliver_encode hs h ht]

/-! ### The bus events of a write, in RUN -/

theorem exec_addrW_run {s : State} (hm : s.mode = .run) : exec .addrW s = .next { s with
    phase := .address, count := 0, pending := 0, rxArmed := true
    outputs := s.outputs ++ [.reqRx .target .first] } := by
  rw [exec, execAddrW, busPre_run hm]
  rfl

theorem exec_rxc_address {s : State} (b : Byte) (hm : s.mode = .run) (ha : s.rxArmed = true)
    (hp : s.phase = .address) : exec (.rxc b) s = .next { s with
      phase := .data, target := b, count := 0, pending := 0, rxArmed := true
      outputs := s.outputs ++ [.reqRx .lane0 .next] } := by
  rw [exec, execRxc, busPre_run hm, if_neg (by simp [ha])]
  simp only [hp, indexByte_eq, disarmRx_eq]

theorem exec_rxc_data {s : State} (b : Byte) (hm : s.mode = .run) (ha : s.rxArmed = true) (hp : s.phase = .data) :
    exec (.rxc b) s = dataByte b (disarmRx s) := by
  rw [exec, execRxc, busPre_run hm, if_neg (by simp [ha])]
  simp only [hp]

theorem salvages_nack {s : State} (hp : s.phase = .data) (hc : 1 ≤ s.count.val) : salvages 0x01 s = true := by
  simp [salvages, isNack, hp, hc]

/-- A no-acknowledge error with at least one byte received, where handlers return (R147, R148). -/
theorem exec_err_salvages {k : Byte} {s : State} (hm : s.mode = .run) (hs : salvages k s = true)
    (hang : s.params.callbackMayHang = false) : exec (.err k) s = .next { s with
      reg := tableAfterWrite s s.target.toNat s.pending
      phase := .idle, count := 0, pending := 0, rxArmed := false
      outputs := s.outputs ++ memWriteRecords s s.target.toNat s.pending ++ [.reqListen] } := by
  rw [exec, execErr, busPre_run hm, salvage, if_pos hs, memWrite_eq hang, andThen_next]
  rfl

/-! ### The value of the bytes received -/

theorem lane_shortValue (bytes : List Byte) {k : Nat} (hk : k ≤ 3) : lane (shortValue bytes) k = bytes.getD k 0 := by
  rw [shortValue, lane_fromLanes _ _ _ _ hk]
  interval_cases k <;> rfl

/-- One more byte goes to the lane after those received (R64, 41_transaction.md R145). -/
theorem shortValue_concat (bytes : List Byte) (b : Byte) (h : bytes.length ≤ 3) :
    shortValue (bytes ++ [b]) = shortValue bytes ||| placeLane b bytes.length := by
  refine eq_of_lanes fun k hk => ?_
  have free : lane (shortValue bytes) bytes.length = 0 := by simp [lane_shortValue bytes h]
  rw [lane_or_placeLane hk h free, lane_shortValue _ hk, lane_shortValue _ hk]
  obtain hlt | rfl | hgt := lt_trichotomy k bytes.length
  · simp [List.getElem?_append_left hlt, hlt.ne]
  · simp
  · have hout : (bytes ++ [b]).length ≤ k := by simpa using hgt
    rw [if_neg hgt.ne', List.getD_eq_default _ _ hout, List.getD_eq_default _ _ hgt.le]

/-! ### The state in the middle of a write -/

/-- The state a write to index `i` is in after the data bytes `bytes`, at most three, from the state `s` before its
ADDR.W (R141, R143, R145); `runEvents_writePrefix` says that the machine gets there. -/
def partialWrite (s : State) (i : Byte) (bytes : List Byte) : State :=
  { s with
    phase := .data, target := i, count := Fin.ofNat 5 bytes.length, pending := shortValue bytes, rxArmed := true
    outputs := s.outputs ++ [.reqRx .target .first, .reqRx .lane0 .next] ++
      (List.range bytes.length).map (fun k => .reqRx (laneDest (k + 1)) (laneFrame (k + 1))) }

theorem partialWrite_ready {s : State} (hs : s.Ready) (i : Byte) (bytes : List Byte) : (partialWrite s i bytes).Ready :=
  ⟨hs.unrefused, hs.noDelivery, hs.noneWaiting, hs.undeclared, hs.noHandlerReads⟩

theorem partialWrite_count (s : State) (i : Byte) {bytes : List Byte} (h : bytes.length ≤ 3) :
    (partialWrite s i bytes).count.val = bytes.length :=
  Nat.mod_eq_of_lt (by omega)

/-- One more data byte, not the fourth. -/
theorem exec_rxc_partialWrite {s : State} (hm : s.mode = .run) (i b : Byte) {bytes : List Byte}
    (h : bytes.length ≤ 2) : exec (.rxc b) (partialWrite s i bytes) = .next (partialWrite s i (bytes ++ [b])) := by
  have hcount : (partialWrite s i bytes).count.val = bytes.length := partialWrite_count s i (by omega)
  have hlen : bytes.length % 5 = bytes.length := Nat.mod_eq_of_lt (by omega)
  have hnext : (bytes.length + 1) % 5 = bytes.length + 1 := Nat.mod_eq_of_lt (by omega)
  rw [exec_rxc_data (s := partialWrite s i bytes) b hm rfl rfl,
    dataByte_notLast (by rw [disarmRx, State.setRxArmed_count]; omega)]
  simp [partialWrite, disarmRx_eq, hlen, hnext, Fin.ext_iff, shortValue_concat bytes b (by omega), List.range_succ]

/-- The address match and the index byte. -/
theorem runEvents_addrW_index {s : State} (hs : s.Ready) (hm : s.mode = .run) (i : Byte) (is : List Instr) :
    runEvents s (.addrW :: .rxc i :: is) = runEvents (partialWrite s i []) is := by
  have haddr := exec_addrW_run hm
  rw [runEvents_cons hs haddr hs.unrefused, runEvents_cons (ready_of_exec hs haddr hs.unrefused)
    (exec_rxc_address i hm rfl rfl) hs.unrefused]
  simp [partialWrite, shortValue, fromLanes, placeLane]

/-- Further data bytes, up to the third. -/
theorem runEvents_dataBytes {s : State} (hs : s.Ready) (hm : s.mode = .run) (i : Byte) (bytes : List Byte)
    (is : List Instr) (received : List Byte) (h : received.length + bytes.length ≤ 3) :
    runEvents (partialWrite s i received) (bytes.map Instr.rxc ++ is) =
      runEvents (partialWrite s i (received ++ bytes)) is := by
  induction bytes generalizing received with
  | nil => simp
  | cons b bytes ih =>
    rw [List.length_cons] at h
    rw [List.map_cons, List.cons_append, runEvents_cons (partialWrite_ready hs i received)
      (exec_rxc_partialWrite hm i b (by omega)) hs.unrefused, ih _ (by simp; omega), List.append_assoc]
    rfl

/-- A write up to its third data byte, whatever follows. -/
theorem runEvents_writePrefix {s : State} (hs : s.Ready) (hm : s.mode = .run) (i : Byte) {bytes : List Byte}
    (h : bytes.length ≤ 3) (is : List Instr) :
    runEvents s ([.addrW, .rxc i] ++ bytes.map Instr.rxc ++ is) = runEvents (partialWrite s i bytes) is :=
  (runEvents_addrW_index hs hm i _).trans (runEvents_dataBytes hs hm i bytes is [] (by simpa using h))

/-- A no-acknowledge error after one to three data bytes: the whole state (R64, R147, R148). -/
theorem exec_nack_partialWrite {s : State} (hm : s.mode = .run) (hang : s.params.callbackMayHang = false) (i : Byte)
    {bytes : List Byte} (h1 : 1 ≤ bytes.length) (h3 : bytes.length ≤ 3) :
    exec (.err 0x01) (partialWrite s i bytes) = .next { s with
      reg := tableAfterWrite s i.toNat (shortValue bytes)
      phase := .idle, target := i, count := 0, pending := 0, rxArmed := false
      outputs := (partialWrite s i bytes).outputs ++ memWriteRecords s i.toNat (shortValue bytes) ++
        [.reqListen] } := by
  have hsalvage : salvages 0x01 (partialWrite s i bytes) = true :=
    salvages_nack rfl (h1.trans_eq (partialWrite_count s i h3).symm)
  have htable : tableAfterWrite (partialWrite s i bytes) i.toNat (shortValue bytes) = _ :=
    tableAfterWrite_congr (s := s) rfl rfl rfl _ _
  have hrecords : memWriteRecords (partialWrite s i bytes) i.toNat (shortValue bytes) = _ :=
    memWriteRecords_congr (s := s) rfl rfl rfl rfl rfl _ _
  rw [exec_err_salvages (s := partialWrite s i bytes) hm hsalvage hang, ← htable, ← hrecords]
  rfl

/-- Settles O50: the events before the error lead to `partialWrite`, by induction on the data bytes, and the error
salvages its value. -/
theorem shortWriteTransaction : Obligations.ShortWriteTransaction := by
  intro s i bytes hs hm hang h1 h3
  rw [runEvents_writePrefix hs hm i h3,
    runEvents_cons (partialWrite_ready hs i bytes) (exec_nack_partialWrite hm hang i h1 h3) hs.unrefused]
  rfl

end Sys2Proof.Machine

/-! SUPPORT and PROOFS of the family 30_encoding.md: which words are reserved and what a step answers to one
(30_encoding.md R89, 60_exceptions.md R202). -/

namespace Sys2Proof.Machine

/-! ### The reserved words -/

theorem whenZero_reserved_iff {z : Bool} {i : Instr} : (∃ r, whenZero z i = .reserved r) ↔ z = false := by
  cases z <;> simp [whenZero]

/-- The two `ADDR` words are those with `B` 0x00 or 0x01 and nothing else set. -/
theorem decode_addr_reserved_iff {w : EventWord} (hop : fieldOp w = 0x01) :
    (∃ r, decode w = .reserved r) ↔
      (fieldB w ≠ 0x00 ∧ fieldB w ≠ 0x01) ∨ fieldIdx w ≠ 0 ∨ fieldV w ≠ 0 := by
  simp only [decode, if_pos hop]
  split_ifs with hzero hwrite hread
  · simp [hzero, hwrite]
  · simp [hzero, hread]
  · exact ⟨fun _ => .inl ⟨hwrite, hread⟩, fun _ => ⟨_, rfl⟩⟩
  · simpa using .inr (not_and_or.mp hzero)

/-- R89 on the fields of R84, by the branches of the decoder: `ADDR`, the seven other `OP` values, none of the eight. -/
theorem decode_reserved_iff (w : EventWord) : (∃ r, decode w = .reserved r) ↔
    ((∀ op ∈ [0x01, 0x02, 0x03, 0x04, 0x10, 0x11, 0x12, 0x20], fieldOp w ≠ op) ∨
     (fieldOp w = 0x01#8 ∧ fieldB w ≠ 0x00#8 ∧ fieldB w ≠ 0x01#8) ∨
     (fieldOp w ∈ [0x03#8, 0x10#8, 0x11#8, 0x12#8, 0x20#8] ∧ fieldB w ≠ 0x00#8) ∨
     (fieldOp w ∈ [0x01#8, 0x02#8, 0x03#8, 0x04#8, 0x12#8] ∧ fieldIdx w ≠ 0#16) ∨
     (fieldOp w ∈ [0x01#8, 0x02#8, 0x03#8, 0x04#8, 0x12#8, 0x20#8] ∧ fieldV w ≠ 0#32)) := by
  by_cases haddr : fieldOp w = 0x01
  · simp [decode_addr_reserved_iff haddr, haddr]
  · simp only [decode, if_neg haddr]
    split_ifs with hrxc hlisten herr hsetro hsetcb henable haread
    · simp [whenZero_reserved_iff, hrxc, imp_iff_not_or]
    · simp [whenZero_reserved_iff, hlisten, imp_iff_not_or]
    · simp [whenZero_reserved_iff, herr, imp_iff_not_or]
    · simp [whenZero_reserved_iff, hsetro]
    · simp [whenZero_reserved_iff, hsetcb]
    · simp [whenZero_reserved_iff, henable, imp_iff_not_or]
    · simp [whenZero_reserved_iff, haread, imp_iff_not_or]
    · have hnone : ∀ op ∈ [0x01, 0x02, 0x03, 0x04, 0x10, 0x11, 0x12, 0x20], fieldOp w ≠ op := by
        simpa using ⟨haddr, hrxc, hlisten, herr, hsetro, hsetcb, henable, haread⟩
      exact ⟨fun _ => .inl hnone, fun _ => ⟨_, rfl⟩⟩

/-! ### The step of a reserved word -/

theorem firstRefusal_reserved {w : EventWord} {r : Reserved} (h : decode w = .reserved r) (s : State) :
    firstRefusal w s = some .reserved := by
  simp only [firstRefusal, h]

/-- The end of a step leaves the register table, the read-only flags and the handlers alone. -/
theorem finishStep_tables (before after : State) : (finishStep before after).reg = after.reg ∧
    (finishStep before after).ro = after.ro ∧ (finishStep before after).cb = after.cb := by
  obtain ⟨os, n, is, e⟩ := finishStep_eq before after
  rw [e]
  exact ⟨rfl, rfl, rfl⟩

/-- A step with a refusal cause: the first cause is marked in the state that took the delivery, then the step ends. -/
theorem step_refuses_eq {s : State} {d : Delivery} {rest : List Delivery} {c : RefuseCause} (hr : s.refused = false)
    (hi : s.inbox = d :: rest) (hf : firstRefusal d.word s = some c) :
    step s = .next (finishStep (takeDelivery d rest s) ((takeDelivery d rest s).setRefusal c.code d.word)) :=
  (step_takes hr hi).trans (processEvent_refuses (by simpa using hf))

/-- Where no read waits, a step with a refusal cause changes the delivery and the three marks only (R202). -/
theorem step_refuses_noneWaiting {s : State} {d : Delivery} {rest : List Delivery} {c : RefuseCause}
    (hr : s.refused = false) (hi : s.inbox = d :: rest) (ht : s.torn = []) (hf : firstRefusal d.word s = some c) :
    step s = .next { s with
      inbox := rest, concurrent := false, handlerReads := []
      refused := true, refuseCode := c.code, refuseWord := d.word } := by
  rw [step_refuses_eq hr hi hf, finishStep_none (by simpa using ht) (by simpa using ht)]
  rfl

/-- A step with a refusal cause keeps the three tables, whatever reads wait. -/
theorem step_refuses_keepsTables {s t : State} {d : Delivery} {rest : List Delivery} {c : RefuseCause}
    (hr : s.refused = false) (hi : s.inbox = d :: rest) (hf : firstRefusal d.word s = some c)
    (h : step s = .next t) : t.reg = s.reg ∧ t.ro = s.ro ∧ t.cb = s.cb := by
  cases (step_refuses_eq hr hi hf).symm.trans h
  simpa using finishStep_tables (takeDelivery d rest s) ((takeDelivery d rest s).setRefusal c.code d.word)

/-- Settles O4: the reserved words by the branches of the decoder, their steps as the case `RF_RESERVED` of a step with
a refusal cause. -/
theorem exactlyReservedWordsAreRefused : Obligations.ExactlyReservedWordsAreRefused := by
  refine ⟨decode_reserved_iff, fun s d rest r hr hi ht hd => ?_, fun s d rest r hr hi hd => ?_⟩
  · exact step_refuses_noneWaiting hr hi ht (firstRefusal_reserved hd s)
  · have hf := firstRefusal_reserved hd s
    obtain ⟨t, hstep, hmark, hcode, hword⟩ := step_refuses hr hi hf
    exact ⟨t, hstep, hmark, hcode, hword, step_refuses_keepsTables hr hi hf hstep⟩

end Sys2Proof.Machine

/-! SUPPORT and PROOFS of the family 40_register_table.md: the register read (R111) and the access policy of MemWrite
(R112, R115), case by case. -/

namespace Sys2Proof.Machine

/-! ### MemRead -/

/-- In bounds, MemRead gives the entry of the table. -/
theorem getElem?_reg_eq_memRead {s : State} {i : Nat} (hw : Memory.wf s) (hi : i < s.params.regCount) :
    s.reg[i]? = some (memRead s i) := by
  obtain ⟨hlen, -, -⟩ := hw
  have hreg : i < s.reg.length := hi.trans_eq hlen.symm
  rw [memRead_inBounds hi, List.getD_eq_getElem _ _ hreg, List.getElem?_eq_getElem hreg]

/-- Settles O29: in bounds the table has an entry `i`, which MemRead gives; out of bounds it gives the sentinel. -/
theorem memReadAnswersRegisterOrSentinel : Obligations.MemReadAnswersRegisterOrSentinel :=
  fun _ _ => ⟨getElem?_reg_eq_memRead, memRead_outOfBounds⟩

/-! ### The table and the records of MemWrite, case by case -/

section MemWriteCases

variable {s : State} {i : Nat} {v : Word}

theorem memWrite_outOfBounds (hi : s.params.regCount ≤ i) : memWrite i v s = .next s :=
  if_neg fun hb => hi.not_gt (inBounds_iff.mp hb)

theorem memWriteReached_iff : memWriteReached s i = true ↔ i < s.params.regCount := inBounds_iff

theorem tableAfterWrite_writable (hi : i < s.params.regCount) (hr : isReadOnly s i = false) :
    tableAfterWrite s i v = s.reg.set i v :=
  if_pos ⟨inBounds_iff.mpr hi, hr⟩

theorem tableAfterWrite_readOnly (hr : isReadOnly s i = true) : tableAfterWrite s i v = s.reg :=
  if_neg fun h => Bool.false_ne_true (h.2.symm.trans hr)

theorem memWriteRecords_noHandler (hh : handlerOf s i = 0) : memWriteRecords s i v = [] :=
  callbackRecords_none hh

/-- In bounds, a handler that makes no reads gets its one callback, whatever the read-only flag. -/
theorem memWriteRecords_handler (hreads : s.handlerReads = []) (hi : i < s.params.regCount)
    (hh : handlerOf s i ≠ 0) : memWriteRecords s i v = [.callback i (handlerOf s i)] :=
  (memWriteRecords_noReads hreads i v).trans (if_pos ⟨inBounds_iff.mpr hi, hh⟩)

end MemWriteCases

/-- Settles O30: `memWrite_eq`, with the table by the read-only flag and the records by the handler. -/
theorem memWriteFollowsAccessPolicy : Obligations.MemWriteFollowsAccessPolicy := by
  refine fun s i v hang hreads => ⟨fun hi => ⟨memWrite_outOfBounds hi, ?_⟩, memWriteReached_iff.mpr,
    fun hi hr hh => ?_, fun hi hr hh => ?_, fun _ hr hh => ?_, fun hi hr hh => ?_⟩
  · exact Bool.eq_false_iff.mpr fun hb => hi.not_gt (memWriteReached_iff.mp hb)
  · rw [memWrite_eq hang, tableAfterWrite_writable hi hr, memWriteRecords_noHandler hh, List.append_nil]
  · rw [memWrite_eq hang, tableAfterWrite_writable hi hr, memWriteRecords_handler hreads hi hh]
  · rw [memWrite_eq hang, tableAfterWrite_readOnly hr, memWriteRecords_noHandler hh, List.append_nil]
  · rw [memWrite_eq hang, tableAfterWrite_readOnly hr, memWriteRecords_handler hreads hi hh]

end Sys2Proof.Machine

/-! SUPPORT and PROOFS of the family 41_transaction.md: what each bus event answers, in CONFIG (R140) and in RUN
(R141 to R150). -/

namespace Sys2Proof.Machine

/-! ### Bus events in CONFIG -/

/-- Settles O13: `busPre` refuses each of the five bus events before its own rule is looked at. -/
theorem busEventsAreRefusedInConfig : Obligations.BusEventsAreRefusedInConfig :=
  fun _ _ hm hi => exec_busEvent_config hi hm

/-! ### Address match and LISTEN in RUN -/

/-- The value sent is that of the state before ADDR.R: disarming changes nothing that MemRead looks at (R142, R63). -/
theorem exec_addrR_run {s : State} (hm : s.mode = .run) : exec .addrR s = .next { s with
    rxArmed := false
    outputs := s.outputs ++ [.reqTx (lane (memRead s s.target.toNat) 0) (lane (memRead s s.target.toNat) 1)
      (lane (memRead s s.target.toNat) 2) (lane (memRead s s.target.toNat) 3)] } := by
  rw [exec, execAddrR, busPre_run hm, transmit_eq, disarmRx_eq]

theorem exec_listen_run {s : State} (hm : s.mode = .run) : exec .listen s = .next { s with
    rxArmed := false, outputs := s.outputs ++ [.reqListen] } := by
  rw [exec, execListen, busPre_run hm, disarmRx_eq]
  rfl

/-- Settles O15: by the mode; the phase is never looked at. -/
theorem addressMatchWriteStartsTransaction : Obligations.AddressMatchWriteStartsTransaction :=
  fun _ => ⟨exec_busEvent_config rfl, exec_addrW_run⟩

/-- Settles O16: by the mode; lane `k` of the value read is its bits from `8 * k` on. -/
theorem addressMatchReadTransmitsTarget : Obligations.AddressMatchReadTransmitsTarget :=
  fun _ => ⟨exec_busEvent_config rfl, exec_addrR_run⟩

/-- Settles O23: by the mode; in RUN only `rxArmed` is written. -/
theorem listenOnlyRearms : Obligations.ListenOnlyRearms :=
  fun _ => ⟨exec_busEvent_config rfl, exec_listen_run⟩

/-! ### RXC in RUN -/

theorem receivesUnarmed_rxc_iff {b : Byte} {s : State} :
    receivesUnarmed (.rxc b) s = true ↔ s.rxArmed = false ∨ s.phase = .idle := by
  simp [receivesUnarmed]

/-- A data byte that is not the fourth (R145, first branch), as an event. -/
theorem exec_rxc_notLast {s : State} (b : Byte) (hm : s.mode = .run) (ha : s.rxArmed = true) (hp : s.phase = .data)
    (hc : s.count.val + 1 < 4) : exec (.rxc b) s = .next { s with
      pending := s.pending ||| placeLane b s.count.val
      count := ⟨s.count.val + 1, Nat.lt_succ_of_lt hc⟩
      rxArmed := true
      outputs := s.outputs ++ [.reqRx (laneDest (s.count.val + 1)) (laneFrame (s.count.val + 1))] } :=
  (exec_rxc_data b hm ha hp).trans (dataByte_notLast (s := disarmRx s) hc)

/-- The fourth data byte (R145, second branch), as an event: the MemWrite runs with the context idle and disarmed. -/
theorem exec_rxc_last {s : State} (b : Byte) (hm : s.mode = .run) (ha : s.rxArmed = true) (hp : s.phase = .data)
    (hc : 3 ≤ s.count.val) : exec (.rxc b) s =
      memWrite s.target.toNat (s.pending ||| placeLane b s.count.val)
        { s with phase := .idle, count := 0, pending := 0, rxArmed := false } :=
  (exec_rxc_data b hm ha hp).trans (dataByte_last (s := disarmRx s) hc)

/-- Settles O18: the two branches of DataByte, with lane, destination and frame read off the count. -/
theorem dataByteAccumulatesThenWrites : Obligations.DataByteAccumulatesThenWrites := by
  refine fun b s hm ha hp => ⟨fun n dest frame h => ?_, fun hc => ?_⟩
  · have hlt : s.count.val + 1 < 4 := by
      obtain ⟨hc, -⟩ | ⟨hc, -⟩ | ⟨hc, -⟩ := h <;> simp [hc]
    have hn : n = ⟨s.count.val + 1, Nat.lt_succ_of_lt hlt⟩ ∧ dest = laneDest (s.count.val + 1) ∧
        frame = laneFrame (s.count.val + 1) := by
      obtain ⟨hc, rfl, rfl, rfl⟩ | ⟨hc, rfl, rfl, rfl⟩ | ⟨hc, rfl, rfl, rfl⟩ := h <;>
        simp [hc, laneDest, laneFrame]
    obtain ⟨rfl, rfl, rfl⟩ := hn
    exact exec_rxc_notLast b hm ha hp hlt
  · have h3 : s.count.val = 3 := congrArg Fin.val hc
    rw [exec_rxc_last b hm ha hp h3.ge, h3]
    rfl

/-- Settles O17: the four clauses are the refusal in CONFIG, the unarmed receive, the index byte and the data byte. -/
theorem receiveCompleteDispatches : Obligations.ReceiveCompleteDispatches :=
  fun b _ => ⟨exec_busEvent_config rfl, fun hm hu => exec_receivesUnarmed (receivesUnarmed_rxc_iff.mpr hu) hm,
    exec_rxc_address b, exec_rxc_data b⟩

/-! ### ERR in RUN -/

theorem salvages_iff {k : Byte} {s : State} :
    salvages k s = true ↔ k = 0x01 ∧ s.phase = .data ∧ 1 ≤ s.count.val := by
  simp [salvages, isNack, and_assoc]

/-- After the salvage, whatever it did, ERR resets the context and listens again, in this order (R147). -/
theorem exec_err_of_salvage {k : Byte} {s u : State} (hm : s.mode = .run) (hu : salvage k s = .next u) :
    exec (.err k) s = .next { u with
      phase := .idle, count := 0, pending := 0, rxArmed := false, outputs := u.outputs ++ [.reqListen] } := by
  rw [exec, execErr, busPre_run hm, hu, andThen_next, idleContext_eq, disarmRx_eq]
  rfl

theorem salvage_none {k : Byte} {s : State} (h : ¬ (k = 0x01 ∧ s.phase = .data ∧ 1 ≤ s.count.val)) :
    salvage k s = .next s :=
  if_neg (mt salvages_iff.mp h)

theorem salvage_memWrite {k : Byte} {s : State} (h : k = 0x01 ∧ s.phase = .data ∧ 1 ≤ s.count.val) :
    salvage k s = memWrite s.target.toNat s.pending s :=
  if_pos (salvages_iff.mpr h)

/-- Settles O20: one lemma for the reset of the context, after the two cases of the salvage. -/
theorem errorResetsAndRearms : Obligations.ErrorResetsAndRearms :=
  fun _ _ => ⟨exec_busEvent_config rfl, fun hm hn => exec_err_of_salvage hm (salvage_none hn),
    fun hm hs _ hw => exec_err_of_salvage hm ((salvage_memWrite hs).trans hw)⟩

/-- Settles O22: an error of the other class has nothing to salvage. -/
theorem otherErrorsNeverWrite : Obligations.OtherErrorsNeverWrite :=
  fun _ _ hm hk => exec_err_of_salvage hm (salvage_none fun h => hk h.1)

end Sys2Proof.Machine

/-! SUPPORT and PROOFS of the family 42_setup_and_host.md: what each setup event answers, in CONFIG (R180, R181, R183)
and in RUN (R182), and that RUN is never left (R183). -/

namespace Sys2Proof.Machine

/-! ### SetReadOnly and SetCallback, by the bounds check -/

section SetupOperations

variable {s : State} {i : Nat}

theorem setReadOnly_inBounds (v : Word) (hi : i < s.params.regCount) :
    setReadOnly i v s = { s with reg := s.reg.set i v, ro := s.ro.set i true } :=
  if_pos (inBounds_iff.mpr hi)

theorem setReadOnly_outOfBounds (v : Word) (hi : s.params.regCount ≤ i) : setReadOnly i v s = s :=
  if_neg fun hb => hi.not_gt (inBounds_iff.mp hb)

theorem setCallback_inBounds (h : Word) (hi : i < s.params.regCount) :
    setCallback i h s = { s with cb := s.cb.set i h } :=
  if_pos (inBounds_iff.mpr hi)

theorem setCallback_outOfBounds (h : Word) (hi : s.params.regCount ≤ i) : setCallback i h s = s :=
  if_neg fun hb => hi.not_gt (inBounds_iff.mp hb)

end SetupOperations

/-! ### Setup events in CONFIG -/

section SetupEvents

variable {s : State} (hm : s.mode = .config)
include hm

theorem exec_setro_config (i : Index) (v : Word) : exec (.setro i v) s = .next (setReadOnly i.toNat v s) := by
  rw [exec, execSetro, setupPre_config hm]

theorem exec_setcb_config (i : Index) (h : Word) : exec (.setcb i h) s = .next (setCallback i.toNat h s) := by
  rw [exec, execSetcb, setupPre_config hm]

theorem exec_enable_config : exec .enable s = .next { s with
    mode := .run, outputs := s.outputs ++ [.reqListen] } := by
  rw [exec, execEnable, setupPre_config hm]
  rfl

end SetupEvents

/-- Settles O24: SetReadOnly by the bounds check in CONFIG, the refusal of every setup event in RUN. -/
theorem setroMakesRegisterReadOnly : Obligations.SetroMakesRegisterReadOnly := by
  refine fun i v s => ⟨fun hm hi => ?_, fun hm hi => ?_, exec_setupEvent_run rfl⟩
  · rw [exec_setro_config hm, setReadOnly_inBounds v hi]
  · rw [exec_setro_config hm, setReadOnly_outOfBounds v hi]

/-- Settles O25: SetCallback by the bounds check in CONFIG, the refusal of every setup event in RUN. -/
theorem setcbReplacesHandler : Obligations.SetcbReplacesHandler := by
  refine fun i h s => ⟨fun hm hi => ?_, fun hm hi => ?_, exec_setupEvent_run rfl⟩
  · rw [exec_setcb_config hm, setCallback_inBounds h hi]
  · rw [exec_setcb_config hm, setCallback_outOfBounds h hi]

/-! ### ENABLE -/

/-- No event leaves RUN: the one event that changes the mode is ENABLE, in CONFIG (`KeepsConfiguration`). -/
theorem exec_mode_run {i : Instr} {s t : State} (hm : s.mode = .run) (h : exec i s = .next t) : t.mode = .run := by
  obtain hsame | ⟨-, -, hrun⟩ := (exec_keepsConfiguration h).mode
  · exact hsame.trans hm
  · exact hrun

/-- Settles O26: ENABLE writes the mode and one record, so the context is that of CONFIG, quiet by R35. -/
theorem enableEntersRun : Obligations.EnableEntersRun := by
  refine fun s => ⟨exec_enable_config, exec_setupEvent_run rfl, fun hm _ _ => exec_mode_run hm,
    fun hinv hm t h => ?_⟩
  cases (exec_enable_config hm).symm.trans h
  exact hinv.configIsQuiet hm

end Sys2Proof.Machine

/-! PROOFS of the family 60_exceptions.md: the order of the refusal causes (R203). -/

namespace Sys2Proof.Machine

/-- Settles O11: a first cause is marked, where no read waits with the whole next state; without a cause the step keeps
the marks, and `refused` was not set. -/
theorem firstRefusalCauseIsReported : Obligations.FirstRefusalCauseIsReported :=
  fun _ _ _ hr hi => ⟨fun _ hf ht => step_refuses_noneWaiting hr hi ht hf, fun _ => step_refuses hr hi,
    fun hf _ h => (step_keepsMarks hr hi hf h).refused.trans hr⟩

end Sys2Proof.Machine

/-! SUPPORT and PROOFS: the event words (30_encoding.md R86, R87, R91, R92). -/

namespace Sys2Proof.Machine

/-! ### Decoding and encoding -/

/-- Settles O3: each direction is a law of its own, `encode_of_decode` and `decode_encode`. -/
theorem decodeAndEncodeAgree : Obligations.DecodeAndEncodeAgree :=
  fun i _ => ⟨encode_of_decode, fun h => h ▸ decode_encode i⟩

/-- Settles O2: each word is evaluated. -/
theorem decodeReadsWordsOfTheMap : Obligations.DecodeReadsWordsOfTheMap :=
  ⟨by decide, by decide, by decide, by decide, by decide, by decide, by decide, by decide, by decide⟩

/-- Settles O56: an assembled program is the words of the events its lines expand to, and each word decodes. -/
theorem assembledWordsDecodeToTheirEvents : Obligations.AssembledWordsDecodeToTheirEvents := by
  intro lines ws h
  unfold assemble at h
  split at h
  · cases h
    simp [decode_encode]
  · cases h

/-! ### Rows of the opcode map -/

theorem fieldOp_and (a b : EventWord) : fieldOp (a &&& b) = fieldOp a &&& fieldOp b := BitVec.extractLsb'_and

theorem fieldB_and (a b : EventWord) : fieldB (a &&& b) = fieldB a &&& fieldB b := BitVec.extractLsb'_and

theorem fieldIdx_and (a b : EventWord) : fieldIdx (a &&& b) = fieldIdx a &&& fieldIdx b := BitVec.extractLsb'_and

theorem fieldV_and (a b : EventWord) : fieldV (a &&& b) = fieldV a &&& fieldV b := BitVec.extractLsb'_and

/-- The word of every event fits its row (R86). -/
theorem encode_fits_row (i : Instr) : encode i &&& rowMask i = rowMatch i := by
  cases i with
  | addrW => exact Laws.EncodeFitsRow.addrW
  | addrR => exact Laws.EncodeFitsRow.addrR
  | rxc b => exact Laws.EncodeFitsRow.rxc b
  | listen => exact Laws.EncodeFitsRow.listen
  | err k => exact Laws.EncodeFitsRow.err k
  | setro i v => exact Laws.EncodeFitsRow.setro i v
  | setcb i h => exact Laws.EncodeFitsRow.setcb i h
  | enable => exact Laws.EncodeFitsRow.enable
  | aread i => exact Laws.EncodeFitsRow.aread i

/-- The event of the row of `i` whose operands are the fields of `w`. -/
def rowEvent (w : EventWord) : Instr → Instr
  | .addrW => .addrW
  | .addrR => .addrR
  | .rxc _ => .rxc (fieldB w)
  | .listen => .listen
  | .err _ => .err (fieldB w)
  | .setro _ _ => .setro (fieldIdx w) (fieldV w)
  | .setcb _ _ => .setcb (fieldIdx w) (fieldV w)
  | .enable => .enable
  | .aread _ => .aread (fieldIdx w)

theorem rowMatch_rowEvent (w : EventWord) (i : Instr) : rowMatch (rowEvent w i) = rowMatch i := by
  cases i <;> rfl

theorem rowMask_rowEvent (w : EventWord) (i : Instr) : rowMask (rowEvent w i) = rowMask i := by
  cases i <;> rfl

/-- What a word that fits a row holds in each field, where the row's mask looks. -/
theorem fields_of_fits {w m r : EventWord} (h : w &&& m = r) :
    fieldOp w &&& fieldOp m = fieldOp r ∧ fieldB w &&& fieldB m = fieldB r ∧
      fieldIdx w &&& fieldIdx m = fieldIdx r ∧ fieldV w &&& fieldV m = fieldV r := by
  subst h
  simp only [fieldOp_and, fieldB_and, fieldIdx_and, fieldV_and, and_self]

theorem byte_and_ones (x : Byte) : x &&& 0xFF#8 = x := BitVec.and_allOnes

theorem index_and_ones (x : Index) : x &&& 0xFFFF#16 = x := BitVec.and_allOnes

theorem word_and_ones (x : Word) : x &&& 0xFFFFFFFF#32 = x := BitVec.and_allOnes

/-- The mask of a row is all ones on `OP` and on every field the row does not use (R86). -/
theorem rowMask_eq_pack (i : Instr) : rowMask i = match i with
    | .addrW | .addrR | .listen | .enable => pack 0xFF#8 0xFF#8 0xFFFF#16 0xFFFFFFFF#32
    | .rxc _ | .err _ => pack 0xFF#8 0#8 0xFFFF#16 0xFFFFFFFF#32
    | .setro _ _ | .setcb _ _ => pack 0xFF#8 0xFF#8 0#16 0#32
    | .aread _ => pack 0xFF#8 0xFF#8 0#16 0xFFFFFFFF#32 := by
  cases i <;> simp only [rowMask] <;> decide

/-- The match value of a row is the word of its event with zero operands. -/
theorem rowMatch_eq_encode (i : Instr) : rowMatch i = encode (rowEvent 0 i) := by
  cases i <;> simp only [rowMatch, rowEvent] <;> decide

/-- A word that fits a row is the word of that row's event whose operands are its fields. -/
theorem encode_rowEvent {w : EventWord} {i : Instr} (h : w &&& rowMask i = rowMatch i) :
    encode (rowEvent w i) = w := by
  rw [rowMask_eq_pack, rowMatch_eq_encode] at h
  obtain ⟨hop, hb, hidx, hv⟩ := fields_of_fits h
  clear h
  calc encode (rowEvent w i) = pack (fieldOp w) (fieldB w) (fieldIdx w) (fieldV w) := by
        cases i <;> simp_all [encode, rowEvent, fieldOp_pack, fieldB_pack, fieldIdx_pack, fieldV_pack,
          byte_and_ones, index_and_ones, word_and_ones]
    _ = w := pack_fields w

/-- Settles O5: a word that fits the row is the word of an event of the row, and the word of an event fits its row. -/
theorem wordIsEventOfRowWhenMaskedBitsMatch : Obligations.WordIsEventOfRowWhenMaskedBitsMatch := by
  refine fun w i => ⟨fun h => ?_, fun ⟨j, hj, hmatch, hmask⟩ => ?_⟩
  · refine ⟨rowEvent w i, ?_, rowMatch_rowEvent w i, rowMask_rowEvent w i⟩
    rw [← encode_rowEvent h, decode_encode, encode_rowEvent h]
  · rw [← encode_of_decode hj, ← hmatch, ← hmask]
    exact encode_fits_row j

end Sys2Proof.Machine

/-! SUPPORT and PROOFS: one step around `exec` (60_exceptions.md R202, R213), that no step is without an answer where
handlers return, and the two events a mode or a declaration decides alone (42_setup_and_host.md R182, R185). -/

namespace Sys2Proof.Machine

/-! ### A step as `exec` of its event -/

/-- Settles O6: a step takes the delivery and decodes it; `stepEvent` adds `finishStep` to a next state alone. -/
theorem stepRunsDecodedEvent : Obligations.StepRunsDecodedEvent := by
  intro s d rest i hr hi hd
  rw [step_takes hr hi, takeDelivery_eq, processEvent]
  simp only [hd, stepEvent]
  cases exec i { s with inbox := rest, concurrent := d.concurrent, handlerReads := d.handlerReads } <;> rfl

/-- Where nothing waits and nothing is declared, the end of a step changes nothing. -/
theorem finishStep_exec {i : Instr} {s t : State} (ht : s.torn = []) (hc : s.concurrent = false)
    (hh : s.handlerReads = []) (h : exec i s = .next t) : finishStep s t = t := by
  have keeps := exec_keepsData h
  have htorn : t.torn = [] := (keeps.torn (by simp [readsTorn, hc])).trans ht
  rw [finishStep_none ht htorn, ← hc, ← hh, ← keeps.concurrent, ← keeps.handlerReads]

/-- Settles O7: the end of the step of O6 changes nothing. -/
theorem undeclaredStepIsExec : Obligations.UndeclaredStepIsExec := by
  intro s d rest i hr hi hd ht hc hh
  rw [stepRunsDecodedEvent s d rest i hr hi hd, hc, hh]
  dsimp only
  cases h : exec i { s with inbox := rest, concurrent := false, handlerReads := [] } with
  | next t =>
    have hend := finishStep_exec (s := { s with inbox := rest, concurrent := false, handlerReads := [] }) ht rfl rfl h
    exact congrArg _ hend
  | fault f => rfl
  | refused r => rfl

theorem tableWord_toNat (w : EventWord) : tableWord 64 w.toNat = w := by
  rw [tableWord, Nat.mod_eq_of_lt w.isLt, BitVec.ofNat_toNat, BitVec.setWidth_eq]

/-- Settles O8: the word stands in front of the inbox with nothing declared, so O7 applies to it. -/
theorem fetchWordRunsNext : Obligations.FetchWordRunsNext := by
  intro s i hr ht
  rw [State.withFetchWord, tableWord_toNat]
  exact undeclaredStepIsExec (s.deliverFirst (encode i)) { word := encode i } s.inbox i hr rfl (decode_encode i) ht
    rfl rfl

/-- Settles O9: the check at the beginning of a step, and with it every run. -/
theorem refusedInstanceIsStuck : Obligations.RefusedInstanceIsStuck :=
  fun _ hr => ⟨step_refused hr, runFrom_refused hr⟩

/-! ### Events that complete -/

theorem busPre_completes {i : Instr} {s : State} {k : State → Result} (h : ∃ t, k s = .next t) :
    ∃ t, busPre i s k = .next t := by
  cases hm : s.mode with
  | config => exact ⟨_, busPre_config hm⟩
  | run => rwa [busPre_run hm]

theorem setupPre_completes {i : Instr} {s : State} {k : State → Result} (h : ∃ t, k s = .next t) :
    ∃ t, setupPre i s k = .next t := by
  cases hm : s.mode with
  | config => rwa [setupPre_config hm]
  | run => exact ⟨_, setupPre_run hm⟩

theorem dataByte_completes {s : State} (b : Byte) (hang : s.params.callbackMayHang = false) :
    ∃ t, dataByte b s = .next t := by
  by_cases hc : s.count.val + 1 < 4
  · exact ⟨_, dataByte_notLast hc⟩
  · exact ⟨_, (dataByte_last (by omega)).trans (memWrite_eq (s := idleContext s) hang)⟩

theorem salvage_completes {s : State} (k : Byte) (hang : s.params.callbackMayHang = false) :
    ∃ t, salvage k s = .next t := by
  unfold salvage
  split
  · exact ⟨_, memWrite_eq hang⟩
  · exact ⟨_, rfl⟩

/-- Where handlers return, every event answers a next state: only a MemWrite could stop. -/
theorem exec_completes (i : Instr) {s : State} (hang : s.params.callbackMayHang = false) :
    ∃ t, exec i s = .next t := by
  cases i with
  | addrW | addrR | listen =>
    simp only [exec, execAddrW, execAddrR, execListen]
    exact busPre_completes ⟨_, rfl⟩
  | setro | setcb | enable =>
    simp only [exec, execSetro, execSetcb, execEnable]
    exact setupPre_completes ⟨_, rfl⟩
  | aread => exact ⟨_, rfl⟩
  | rxc b =>
    rw [exec, execRxc]
    refine busPre_completes ?_
    split
    · exact ⟨_, rfl⟩
    · split
      · exact ⟨_, rfl⟩
      · exact ⟨_, rfl⟩
      · exact dataByte_completes (s := disarmRx s) b hang
  | err k =>
    obtain ⟨u, hu⟩ := salvage_completes k hang
    rw [exec, execErr]
    refine busPre_completes ?_
    rw [hu, andThen_next]
    exact ⟨_, rfl⟩

/-- Settles O10: by the cases of a step: no delivery, a reserved word, an event. -/
theorem machineNeverHalts : Obligations.MachineNeverHalts := by
  refine fun s hang => ⟨fun i => exec_completes i hang, fun hr => ?_⟩
  cases hi : s.inbox with
  | nil => exact ⟨_, step_waits hr hi⟩
  | cons d rest =>
    cases hd : decode d.word with
    | reserved r => exact ⟨_, step_refuses_eq hr hi (firstRefusal_reserved hd s)⟩
    | event i =>
      obtain ⟨t, ht⟩ := exec_completes (s := takeDelivery d rest s) i hang
      refine ⟨finishStep (takeDelivery d rest s) t, ?_⟩
      rw [step_takes hr hi, processEvent]
      simp only [hd, ht, stepEvent, andThen_next]

/-! ### Setup events in RUN, application reads -/

/-- Settles O14: `setupPre` refuses each of the three events before its own rule is looked at. -/
theorem setupEventsAreRefusedInRun : Obligations.SetupEventsAreRefusedInRun :=
  fun _ _ hm hi => exec_setupEvent_run hi hm

theorem exec_aread_atomic {s : State} (i : Index) (h : readsTorn s = false) :
    exec (.aread i) s = .next { s with outputs := s.outputs ++ [.appData (memRead s i.toNat)] } := by
  rw [exec, execAread, if_neg (by simp [h]), replyRead_eq]

theorem exec_aread_declared {s : State} (i : Index) (h : readsTorn s = true) :
    exec (.aread i) s = .next { s with torn := s.torn ++ [i] } := by
  rw [exec, execAread, if_pos h, deferRead_eq]

/-- Settles O27: either disjunct makes the read atomic. -/
theorem applicationReadReplies : Obligations.ApplicationReadReplies := by
  refine fun i s h => exec_aread_atomic i ?_
  obtain h | h := h <;> simp [readsTorn, h]

/-! ### Several instances -/

theorem stepOne_of_step {k : Nat} {m : List State} {s t : State} (hk : m[k]? = some s) (h : step s = .next t) :
    stepOne k m = .next (m.set k t) := by
  simp only [stepOne, hk, h]

/-- Everything a step of the `k`-th entry can do when it answers: nothing, or write the `k`-th entry. -/
theorem stepOne_next {k : Nat} {m m' : List State} (h : stepOne k m = .next m') : m' = m ∨ ∃ t, m' = m.set k t := by
  unfold stepOne at h
  split at h
  · cases h
    exact .inl rfl
  · split at h <;> cases h
    exact .inr ⟨_, rfl⟩

/-- Settles O48: a step writes the `k`-th entry alone. -/
theorem stepOfOneInstanceKeepsTheOthers : Obligations.StepOfOneInstanceKeepsTheOthers := by
  refine ⟨fun k j m m' h hj => ?_, fun k m s t hk h => ⟨m.set k t, stepOne_of_step hk h, ?_⟩⟩
  · obtain rfl | ⟨t, rfl⟩ := stepOne_next h
    · rfl
    · exact List.getElem?_set_ne hj.symm
  · have hlt : k < m.length := (List.getElem?_eq_some_iff.mp hk).1
    exact List.getElem?_set_self hlt

end Sys2Proof.Machine

/-! PROOFS: what one event leaves unchanged, read off `KeepsConfiguration` and `KeepsData` (10_state.md R21, R24, R25,
R32, R37, 40_register_table.md R117, R119). -/

namespace Sys2Proof.Machine

/-! ### The register table -/

/-- A store passes the bounds check. -/
theorem storeOf_inBounds {i : Instr} {s : State} {a : Nat} {v : Word} (h : storeOf i s = some (a, v)) :
    a < s.params.regCount := by
  unfold storeOf at h
  split at h
  · split at h
    · next hgate =>
      cases h
      exact inBounds_iff.mp hgate.1
    · cases h
  · split at h
    · split at h
      · next hb =>
        cases h
        exact inBounds_iff.mp hb
      · cases h
    · cases h

/-- Settles O35: `exec` leaves the table that `storeOf` says, and a store in bounds is read back at its own index
only. -/
theorem eventsStoreOnlyWhereThePolicySays : Obligations.EventsStoreOnlyWhereThePolicySays := by
  intro i s t h
  have hp := (exec_keepsConfiguration h).params
  have htable := (exec_keepsData h).table
  refine ⟨fun a v hs => ?_, fun hs j => ?_⟩
  · rw [hs] at htable
    refine ⟨fun hw => ?_, fun j hj => memRead_of_set_ne hp htable hj.symm⟩
    rw [memRead_of_set hp htable hw (storeOf_inBounds hs), if_pos rfl]
  · rw [hs] at htable
    exact memRead_congr hp htable j

/-! ### The callback table, `target`, the mode -/

theorem handlerOf_congr {s t : State} (h : t.cb = s.cb) (j : Nat) : handlerOf t j = handlerOf s j := by
  rw [handlerOf, handlerOf, h]

/-- A callback table in which one slot has been replaced. -/
theorem handlerOf_of_set {s t : State} {a : Nat} {h : Word} (ht : t.cb = s.cb.set a h) (j : Nat) :
    handlerOf t j = if a = j ∧ j < s.cb.length then h else handlerOf s j := by
  by_cases ha : a = j
  · subst ha
    by_cases hl : a < s.cb.length <;> simp [handlerOf, ht, hl]
  · simp [handlerOf, ht, ha]

/-- Settles O37: `exec` leaves the callback table alone or is SETCB in CONFIG and replaces its own slot. -/
theorem onlySetcbWritesHandlers : Obligations.OnlySetcbWritesHandlers := by
  intro i s t j h hne
  obtain hcb | ⟨r, handler, hi, hm, hcb⟩ := (exec_keepsConfiguration h).handlers
  · exact absurd (handlerOf_congr hcb j) hne
  · rw [handlerOf_of_set hcb] at hne ⊢
    split at hne
    · next hslot => exact ⟨r, handler, hi, hslot.1, hm, if_pos hslot⟩
    · exact absurd rfl hne

/-- Settles O38: `exec` leaves `target` alone or is the index byte, and the index byte is accepted in AddressPhase. -/
theorem onlyIndexByteWritesTarget : Obligations.OnlyIndexByteWritesTarget := by
  refine fun i s t h => ⟨fun hne => (exec_keepsData h).target.resolve_left hne, ?_⟩
  rintro b rfl hm ha hp
  cases (exec_rxc_address b hm ha hp).symm.trans h
  rfl

/-- Settles O39: each part is one of the frame facts of `exec`. -/
theorem onlyEnableChangesMode : Obligations.OnlyEnableChangesMode := by
  intro i s t h
  have config := exec_keepsConfiguration h
  have data := exec_keepsData h
  exact ⟨config.mode.resolve_left, config.params, data.inbox, data.concurrent, data.handlerReads⟩

/-! ### Records -/

/-- A callback among the records of an event's MemWrite is that of its register. -/
theorem callback_mem_eventRecords {i : Instr} {s : State} {j : Nat} {h : Word}
    (hmem : Output.callback j h ∈ eventRecords i s) :
    (∃ v, memWriteOf i s = some (j, v)) ∧ j < s.params.regCount ∧ h = handlerOf s j ∧ h ≠ 0 := by
  unfold eventRecords at hmem
  split at hmem
  · next a v hw =>
    obtain ⟨hb, hh, rfl, rfl⟩ := callback_mem_memWriteRecords.mp hmem
    exact ⟨⟨v, hw⟩, hb, rfl, hh⟩
  · cases hmem

/-- Settles O40: the records an event appends are those of its MemWrite and others that are no callbacks. -/
theorem callbacksComeOnlyFromMemWrite : Obligations.CallbacksComeOnlyFromMemWrite := by
  intro i s t h
  obtain ⟨rest, hout, hrest⟩ := (exec_keepsData h).outputs
  refine ⟨eventRecords i s ++ rest, hout, fun j handler hmem => ?_⟩
  obtain hevent | hother := List.mem_append.mp hmem
  · exact callback_mem_eventRecords hevent
  · exact absurd hother (hrest j handler)

/-- Settles O41: the one record of either read is computed from the value read. -/
theorem readsSeeOnlyRegisters : Obligations.ReadsSeeOnlyRegisters := by
  refine ⟨fun s t s' t' hs ht heq hs' ht' => ?_, fun i s t s' t' hs ht heq hs' ht' => ?_⟩
  · cases (exec_addrR_run hs).symm.trans hs'
    cases (exec_addrR_run ht).symm.trans ht'
    exact ⟨_, rfl, by rw [heq]⟩
  · cases (exec_aread_atomic i hs).symm.trans hs'
    cases (exec_aread_atomic i ht).symm.trans ht'
    exact ⟨_, rfl, by rw [heq]⟩

end Sys2Proof.Machine

/-! SUPPORT and PROOFS: the MemWrite of an event with its callback and the reads its handler makes, where handlers
return and where one may hang (40_register_table.md R112, R115, R116, R118; 41_transaction.md R145, R148). -/

namespace Sys2Proof.Machine

/-! ### The table and the records of MemWrite, by the bound -/

theorem tableAfterWrite_eq_ite (s : State) (i : Nat) (v : Word) : tableAfterWrite s i v =
    if i < s.params.regCount ∧ isReadOnly s i = false then s.reg.set i v else s.reg := by
  simp only [tableAfterWrite, inBounds_iff]

theorem memWriteRecords_eq_ite (s : State) (i : Nat) (v : Word) : memWriteRecords s i v =
    if i < s.params.regCount ∧ handlerOf s i ≠ 0 then
      .callback i (handlerOf s i) :: handlerReplies { s with reg := tableAfterWrite s i v } else [] := by
  simp only [memWriteRecords, callbackRecords, inBounds_iff]
  rfl

/-- The replies to a handler's reads after the store: the value stored, or what was there before. -/
theorem handlerReplies_tableAfterWrite {s : State} (hw : Memory.wf s) (i : Nat) (v : Word) :
    handlerReplies { s with reg := tableAfterWrite s i v } = s.handlerReads.map fun j => .appData
      (if j.toNat = i ∧ i < s.params.regCount ∧ isReadOnly s i = false then v else memRead s j.toNat) := by
  simp only [handlerReplies, memRead_tableAfterWrite hw]

/-- Settles O31: `memWrite_eq`, with the table, the callback and the replies written out. -/
theorem memWriteServesHandlerReads : Obligations.MemWriteServesHandlerReads := by
  intro s i v hang hw
  rw [memWrite_eq hang, memWriteRecords_eq_ite, handlerReplies_tableAfterWrite hw, tableAfterWrite_eq_ite]

/-! ### Events that make a MemWrite, where handlers return -/

section HandlersReturn

variable {s : State} (hm : s.mode = .run) (hp : s.phase = .data) (hang : s.params.callbackMayHang = false)
include hm hp hang

/-- The fourth data byte (R145). -/
theorem exec_rxc_fourth (b : Byte) (ha : s.rxArmed = true) (hc : 3 ≤ s.count.val) :
    exec (.rxc b) s = .next { s with
      reg := tableAfterWrite s s.target.toNat (s.pending ||| placeLane b s.count.val)
      phase := .idle, count := 0, pending := 0, rxArmed := false
      outputs := s.outputs ++ memWriteRecords s s.target.toNat (s.pending ||| placeLane b s.count.val) } := by
  rw [exec_rxc_last b hm ha hp hc, memWrite_eq]
  · rfl
  · exact hang

/-- The no-acknowledge error after at least one data byte (R147, R148). -/
theorem exec_nack_salvages (hc : 1 ≤ s.count.val) : exec (.err 0x01) s = .next { s with
    reg := tableAfterWrite s s.target.toNat s.pending
    phase := .idle, count := 0, pending := 0, rxArmed := false
    outputs := s.outputs ++ memWriteRecords s s.target.toNat s.pending ++ [.reqListen] } :=
  exec_err_salvages hm (salvages_nack hp hc) hang

end HandlersReturn

/-- Settles O19: the MemWrite of the fourth data byte, with its table and its records written out. -/
theorem fourthByteStoresAndInvokes : Obligations.FourthByteStoresAndInvokes := by
  intro b s hm ha hp hc hang
  have h3 : s.count.val = 3 := congrArg Fin.val hc
  rw [exec_rxc_fourth hm hp hang b ha h3.ge, memWriteRecords_eq_ite, tableAfterWrite_eq_ite, h3]
  rfl

/-- Settles O21: with a byte received the salvage, written out; with none the error has nothing to salvage. -/
theorem nackSalvagesPartialWrite : Obligations.NackSalvagesPartialWrite := by
  refine fun s hm hp hang => ⟨fun h1 _ => ?_, fun h0 => ?_⟩
  · rw [exec_nack_salvages hm hp hang h1, memWriteRecords_eq_ite, tableAfterWrite_eq_ite]
  · exact exec_err_of_salvage hm (salvage_none (by simp [h0]))

/-! ### A handler that may hang -/

section MayHang

variable {s : State} {i : Nat} (v : Word)

/-- MemWrite of a register with a handler that may hang (R118). -/
theorem memWrite_mayHang (hang : s.params.callbackMayHang = true) (hi : i < s.params.regCount)
    (hh : handlerOf s i ≠ 0) : memWrite i v s =
      if Config.freeHang s.draws = true then .fault .handlerHung
      else .next { s with
        reg := tableAfterWrite s i v, outputs := s.outputs ++ memWriteRecords s i v, draws := s.draws + 1 } := by
  have hb : inBounds s i = true := inBounds_iff.mpr hi
  rw [memWrite, if_pos hb, storeUnlessReadOnly_eq v hb,
    invokeCallback_some (s := { s with reg := tableAfterWrite s i v }) hb hh, handlerReturns, if_pos hang]
  rfl

/-- MemWrite of a register without a handler, whether handlers may hang or not. -/
theorem memWrite_noHandler (hi : i < s.params.regCount) (hh : handlerOf s i = 0) :
    memWrite i v s = .next { s with reg := tableAfterWrite s i v } := by
  have hb : inBounds s i = true := inBounds_iff.mpr hi
  rw [memWrite, if_pos hb, storeUnlessReadOnly_eq v hb,
    invokeCallback_none (s := { s with reg := tableAfterWrite s i v }) hh]

end MayHang

section MayHangEvents

variable {s : State} (hm : s.mode = .run) (hp : s.phase = .data) (hang : s.params.callbackMayHang = true)
  (hi : s.target.toNat < s.params.regCount) (hh : handlerOf s s.target.toNat ≠ 0)
include hm hp hang hi hh

theorem exec_rxc_fourth_mayHang (b : Byte) (ha : s.rxArmed = true) (hc : 3 ≤ s.count.val) :
    exec (.rxc b) s =
      if Config.freeHang s.draws = true then .fault .handlerHung
      else .next { s with
        reg := tableAfterWrite s s.target.toNat (s.pending ||| placeLane b s.count.val)
        phase := .idle, count := 0, pending := 0, rxArmed := false
        outputs := s.outputs ++ memWriteRecords s s.target.toNat (s.pending ||| placeLane b s.count.val)
        draws := s.draws + 1 } := by
  rw [exec_rxc_last b hm ha hp hc, memWrite_mayHang]
  · rfl
  · exact hang
  · exact hi
  · exact hh

theorem exec_nack_mayHang (hc : 1 ≤ s.count.val) : exec (.err 0x01) s =
    if Config.freeHang s.draws = true then .fault .handlerHung
    else .next { s with
      reg := tableAfterWrite s s.target.toNat s.pending
      phase := .idle, count := 0, pending := 0, rxArmed := false
      outputs := s.outputs ++ memWriteRecords s s.target.toNat s.pending ++ [.reqListen]
      draws := s.draws + 1 } := by
  rw [exec, execErr, busPre_run hm, salvage_memWrite ⟨rfl, hp, hc⟩, memWrite_mayHang _ hang hi hh]
  split
  · rw [andThen_fault]
  · rw [andThen_next, idleContext_eq, disarmRx_eq]
    rfl

end MayHangEvents

/-- Settles O33: MemWrite by bound and handler, and the two events that make one to a register with a handler. -/
theorem hangingHandlerStopsTheStep : Obligations.HangingHandlerStopsTheStep := by
  refine fun s i v hang => ⟨memWrite_mayHang v hang, fun hi hh => ?_, memWrite_outOfBounds, ?_⟩
  · rw [memWrite_noHandler v hi hh]
    cases hr : isReadOnly s i with
    | false => rw [tableAfterWrite_writable hi hr, if_neg Bool.false_ne_true]
    | true => rw [tableAfterWrite_readOnly hr, if_pos rfl]
  · rintro rfl hi hh hm hp
    refine ⟨?_, ?_⟩
    · rintro b ha hc rfl
      have h3 : s.count.val = 3 := congrArg Fin.val hc
      rw [exec_rxc_fourth_mayHang hm hp hang hi hh b ha h3.ge, h3]
      rfl
    · rintro hc - rfl
      exact exec_nack_mayHang hm hp hang hi hh hc

/-! ### The step of one delivery where none is left -/

/-- A step takes the one delivery, with what the host declares on it; what was declared before does not matter. -/
theorem step_deliver {s : State} (hr : s.refused = false) (hi : s.inbox = []) (d : Delivery) :
    step (s.deliver d) = processEvent d.word (takeDelivery d [] s) :=
  step_takes (s := s.deliver d) hr (by simp [hi])

/-- The step of a delivered event that goes on. -/
theorem step_deliver_next {s t : State} {i : Instr} {d : Delivery} (hr : s.refused = false) (hi : s.inbox = [])
    (hd : decode d.word = .event i) (h : exec i (takeDelivery d [] s) = .next t) :
    step (s.deliver d) = .next (finishStep (takeDelivery d [] s) t) := by
  rw [step_deliver hr hi, processEvent]
  simp only [hd, h, stepEvent, andThen_next]

theorem runFrom_one {s t : State} {d : Delivery} (h : step (s.deliver d) = .next t) : runFrom s [d] = t := by
  simp only [runFrom, h]

theorem runFrom_two {s t u : State} {d e : Delivery} (ht : step (s.deliver d) = .next t)
    (hu : step (t.deliver e) = .next u) : runFrom s [d, e] = u := by
  simp only [runFrom, ht, hu]

/-! ### Handler reads declared on the delivery -/

theorem takeDelivery_ready {s : State} (hs : s.Ready) (w : EventWord) (reads : List Index) :
    takeDelivery { word := w, handlerReads := reads } [] s = { s with handlerReads := reads } := by
  rw [takeDelivery_eq, ← hs.noDelivery, ← hs.undeclared]

/-- The step of an event delivered to a ready state with handler reads: `exec` of it, then the reads are used up. -/
theorem runFrom_handlerReads {s t : State} {i : Instr} {reads : List Index} (hs : s.Ready)
    (h : exec i { s with handlerReads := reads } = .next t) :
    runFrom s [{ word := encode i, handlerReads := reads }] = { t with handlerReads := [] } := by
  have keeps := exec_keepsData h
  have htorn : t.torn = [] := (keeps.torn (by simp [readsTorn, hs.undeclared])).trans hs.noneWaiting
  have hconc : t.concurrent = false := keeps.concurrent.trans hs.undeclared
  rw [← takeDelivery_ready hs (encode i) reads] at h
  have hstep := step_deliver_next (d := { word := encode i, handlerReads := reads }) hs.unrefused hs.noDelivery
    (decode_encode i) h
  rw [runFrom_one hstep, finishStep_none (s := takeDelivery _ [] s) hs.noneWaiting htorn, ← hconc]

/-- The records of MemWrite with handler reads declared: the callback, then the replies from the state after the
store. -/
theorem memWriteRecords_reads {s : State} {i : Nat} (hw : Memory.wf s) (hi : i < s.params.regCount)
    (hh : handlerOf s i ≠ 0) (reads : List Index) (v : Word) :
    memWriteRecords { s with handlerReads := reads } i v = .callback i (handlerOf s i) ::
      reads.map (fun j => .appData (if j.toNat = i ∧ isReadOnly s i = false then v else memRead s j.toNat)) := by
  have hreplies := handlerReplies_tableAfterWrite (s := { s with handlerReads := reads }) hw i v
  rw [memWriteRecords_eq_ite, if_pos ⟨hi, hh⟩, hreplies]
  simp only [hi, true_and]
  rfl

/-- Settles O32: the step is `exec` of the event with the reads declared, whose records they are. -/
theorem handlerReadsSeeTheStore : Obligations.HandlerReadsSeeTheStore := by
  intro s reads hs hw hm hp hang hi hh
  refine ⟨fun b ha hc => ?_, fun h1 _ => ?_⟩
  · have h3 : s.count.val = 3 := congrArg Fin.val hc
    rw [runFrom_handlerReads hs
      (exec_rxc_fourth (s := { s with handlerReads := reads }) hm hp hang b ha h3.ge)]
    dsimp only
    rw [memWriteRecords_reads hw hi hh, ← hs.noHandlerReads, h3]
    rfl
  · rw [runFrom_handlerReads hs (exec_nack_salvages (s := { s with handlerReads := reads }) hm hp hang h1)]
    dsimp only
    rw [memWriteRecords_reads hw hi hh, ← hs.noHandlerReads]
    rfl

/-! ### A declared read and the step it is concurrent with -/

/-- The step of a declared read: it joins the reads that wait, and nothing is answered (R66, first half). -/
theorem step_deliver_declaredRead {s : State} (hs : s.Ready) (htorn : s.params.tornReads = true) (i : Index) :
    step (s.deliver { word := encode (.aread i), concurrent := true }) = .next { s with torn := [i] } := by
  have hread := exec_aread_declared (s := takeDelivery { word := encode (.aread i), concurrent := true } [] s) i
    (by simp [readsTorn, htorn])
  have hstep := step_deliver_next (d := { word := encode (.aread i), concurrent := true }) hs.unrefused hs.noDelivery
    (decode_encode (.aread i)) hread
  rw [hstep, finishStep, answerTorn, if_neg (by simp)]
  obtain ⟨-, hinbox, hwait, hconc, hreads⟩ := hs
  cases s
  cases hinbox
  cases hwait
  cases hconc
  cases hreads
  rfl

/-- The end of a step with one read waiting answers it, each lane from before or after the step (R66, second half). -/
theorem finishStep_oneWaiting {s t : State} {i : Index} (hs : s.torn = [i]) (ht : t.torn = [i])
    (hc : t.concurrent = false) : finishStep s t = { t with
      torn := [], handlerReads := []
      outputs := t.outputs ++
        [.appData (mixLanes (Config.freeLanes t.draws) (memRead s i.toNat) (memRead t i.toNat))]
      draws := t.draws + 1 } := by
  rw [finishStep, answerTorn, if_pos (ht.trans hs.symm), hs, ← hc]
  rfl

/-- Settles O28: the read waits through the step of `x` and is answered at its end. -/
theorem tornReadMixesLanesAcrossStep : Obligations.TornReadMixesLanesAcrossStep := by
  intro s t i x reads hs htorn h
  have keeps := exec_keepsData h
  have hwait : t.torn = [i] := keeps.torn (by simp [readsTorn, hs.undeclared])
  have htake : takeDelivery { word := encode x, handlerReads := reads } [] { s with torn := [i] } =
      { s with torn := [i], handlerReads := reads } := by
    rw [takeDelivery_eq, ← hs.noDelivery, ← hs.undeclared]
  refine ⟨mixLanes (Config.freeLanes t.draws) (memRead s i.toNat) (memRead t i.toNat), Config.freeLanes t.draws, ?_,
    fun k hk => lane_mixLanes _ _ _ hk⟩
  rw [← htake] at h
  have hstep := step_deliver_next (s := { s with torn := [i] }) (d := { word := encode x, handlerReads := reads })
    hs.unrefused hs.noDelivery (decode_encode x) h
  rw [runFrom_two (step_deliver_declaredRead hs htorn i) hstep,
    finishStep_oneWaiting rfl hwait (keeps.concurrent.trans hs.undeclared)]
  rfl

end Sys2Proof.Machine

/-! SUPPORT and PROOFS: the invariants between steps (10_state.md R35, R38, R42). -/

namespace Sys2Proof.Machine

/-! ### The end of a step, field by field -/

section FinishStepFields

variable (before after : State)

@[simp] theorem finishStep_params : (finishStep before after).params = after.params := by
  obtain ⟨os, n, is, e⟩ := finishStep_eq before after
  rw [e]

@[simp] theorem finishStep_reg : (finishStep before after).reg = after.reg := (finishStep_tables before after).1

@[simp] theorem finishStep_ro : (finishStep before after).ro = after.ro := (finishStep_tables before after).2.1

@[simp] theorem finishStep_cb : (finishStep before after).cb = after.cb := (finishStep_tables before after).2.2

@[simp] theorem finishStep_mode : (finishStep before after).mode = after.mode := by
  obtain ⟨os, n, is, e⟩ := finishStep_eq before after
  rw [e]

@[simp] theorem finishStep_inbox : (finishStep before after).inbox = after.inbox := by
  obtain ⟨os, n, is, e⟩ := finishStep_eq before after
  rw [e]

end FinishStepFields

/-! ### The invariants of the transaction context -/

/-- The items of `State.Inv` on the transaction context, the monitor bit and the mode (R35). -/
structure ContextInv (s : State) : Prop where
  outsideData : s.phase ≠ .data → s.count = 0 ∧ s.pending = 0
  countInData : s.phase = .data → s.count.val ≤ 3
  highLanesZero : s.phase = .data → ∀ k : Nat, s.count.val ≤ k → k ≤ 3 → lane s.pending k = 0
  armedOnlyInWrite : s.rxArmed = true → s.phase ≠ .idle
  configIsQuiet : s.mode = .config →
    s.phase = .idle ∧ s.target = 0 ∧ s.count = 0 ∧ s.pending = 0 ∧ s.rxArmed = false

theorem State.Inv.context {s : State} (h : s.Inv) : ContextInv s :=
  ⟨h.outsideData, h.countInData, h.highLanesZero, h.armedOnlyInWrite, h.configIsQuiet⟩

/-- The fields that `ContextInv` speaks of are the same in both states. -/
structure KeepsContext (s t : State) : Prop where
  phase : t.phase = s.phase
  target : t.target = s.target
  count : t.count = s.count
  pending : t.pending = s.pending
  rxArmed : t.rxArmed = s.rxArmed
  mode : t.mode = s.mode

theorem KeepsContext.inv {s t : State} (k : KeepsContext s t) (h : ContextInv s) : ContextInv t := by
  obtain ⟨hout, hcount, hlanes, harmed, hquiet⟩ := h
  constructor <;> rw [k.phase]
  · rwa [k.count, k.pending]
  · rwa [k.count]
  · rwa [k.count, k.pending]
  · rwa [k.rxArmed]
  · rwa [k.mode, k.target, k.count, k.pending, k.rxArmed]

theorem takeDelivery_keepsContext (s : State) (d : Delivery) (rest : List Delivery) :
    KeepsContext s (takeDelivery d rest s) :=
  ⟨rfl, rfl, rfl, rfl, rfl, rfl⟩

theorem setRefusal_keepsContext (s : State) (c : BitVec 8) (w : EventWord) : KeepsContext s (s.setRefusal c w) :=
  ⟨rfl, rfl, rfl, rfl, rfl, rfl⟩

theorem finishStep_keepsContext (before after : State) : KeepsContext after (finishStep before after) := by
  obtain ⟨os, n, is, e⟩ := finishStep_eq before after
  rw [e]
  exact ⟨rfl, rfl, rfl, rfl, rfl, rfl⟩

theorem setReadOnly_keepsContext (s : State) (i : Nat) (v : Word) : KeepsContext s (setReadOnly i v s) := by
  unfold setReadOnly
  split <;> exact ⟨rfl, rfl, rfl, rfl, rfl, rfl⟩

theorem setCallback_keepsContext (s : State) (i : Nat) (h : Word) : KeepsContext s (setCallback i h s) := by
  unfold setCallback
  split <;> exact ⟨rfl, rfl, rfl, rfl, rfl, rfl⟩

theorem exec_aread_keepsContext {s t : State} {i : Index} (h : exec (.aread i) s = .next t) : KeepsContext s t := by
  cases h
  split <;> exact ⟨rfl, rfl, rfl, rfl, rfl, rfl⟩

/-- In RUN, outside DataPhase, with nothing received, the context is in order. -/
theorem contextInv_of_notData {s : State} (hm : s.mode = .run) (hp : s.phase ≠ .data) (hc : s.count = 0)
    (hv : s.pending = 0) (ha : s.rxArmed = true → s.phase ≠ .idle) : ContextInv s where
  outsideData _ := ⟨hc, hv⟩
  countInData h := absurd h hp
  highLanesZero h := absurd h hp
  armedOnlyInWrite := ha
  configIsQuiet h := by simp [hm] at h

/-- In RUN, in DataPhase, a partial write with its free lanes zero is in order. -/
theorem contextInv_of_data {s : State} (hm : s.mode = .run) (hp : s.phase = .data) (hc : s.count.val ≤ 3)
    (hv : ∀ k, s.count.val ≤ k → k ≤ 3 → lane s.pending k = 0) : ContextInv s where
  outsideData h := absurd hp h
  countInData _ := hc
  highLanesZero _ := hv
  armedOnlyInWrite _ := by simp [hp]
  configIsQuiet h := by simp [hm] at h

/-- Disarming reception keeps the context in order. -/
theorem contextInv_disarm {s t : State} (h : ContextInv s) (hp : t.phase = s.phase) (hc : t.count = s.count)
    (hv : t.pending = s.pending) (ha : t.rxArmed = false) (ht : t.mode = .run) : ContextInv t where
  outsideData := by rw [hp, hc, hv]; exact h.outsideData
  countInData := by rw [hp, hc]; exact h.countInData
  highLanesZero := by rw [hp, hc, hv]; exact h.highLanesZero
  armedOnlyInWrite := by simp [ha]
  configIsQuiet hm := by simp [ht] at hm

/-- A data byte that is not the fourth leaves the lanes after it zero. -/
theorem lanesZero_after_dataByte {s : State} (b : Byte) (h : ContextInv s) (hp : s.phase = .data)
    (hc : s.count.val + 1 < 4) {k : Nat} (hk : s.count.val + 1 ≤ k) (hk3 : k ≤ 3) :
    lane (s.pending ||| placeLane b s.count.val) k = 0 := by
  rw [lane_or_placeLane hk3 (by omega) (h.highLanesZero hp _ le_rfl (by omega)), if_neg (by omega)]
  exact h.highLanesZero hp k (by omega) hk3

/-- RXC in RUN, by what it finds: no request, an index byte, a data byte, the fourth data byte. -/
theorem exec_rxc_contextInv {s t : State} {b : Byte} (hm : s.mode = .run) (hs : ContextInv s)
    (h : exec (.rxc b) s = .next t) : ContextInv t := by
  by_cases hu : receivesUnarmed (.rxc b) s = true
  · cases (exec_receivesUnarmed hu hm).symm.trans h
    exact (setRefusal_keepsContext s _ _).inv hs
  · obtain ⟨ha, hidle⟩ : s.rxArmed = true ∧ s.phase ≠ .idle := by simpa [receivesUnarmed] using hu
    cases hp : s.phase with
    | idle => exact absurd hp hidle
    | address =>
      cases (exec_rxc_address b hm ha hp).symm.trans h
      exact contextInv_of_data hm rfl (Nat.zero_le _) fun k _ _ => lane_zero k
    | data =>
      by_cases hc : s.count.val + 1 < 4
      · cases (exec_rxc_notLast b hm ha hp hc).symm.trans h
        exact contextInv_of_data hm hp (Nat.le_of_lt_succ hc) fun k => lanesZero_after_dataByte b hs hp hc
      · rw [exec_rxc_last b hm ha hp (by omega)] at h
        rw [memWrite_next h]
        exact contextInv_of_notData hm (by simp) rfl rfl (by simp)

/-- ERR in RUN ends in Idle, whatever it salvaged. -/
theorem exec_err_contextInv {s t : State} {k : Byte} (hm : s.mode = .run) (h : exec (.err k) s = .next t) :
    ContextInv t := by
  have ht : t.mode = .run := exec_mode_run hm h
  rw [exec, execErr, busPre_run hm] at h
  obtain ⟨u, -, hu⟩ := andThen_eq_next.mp h
  cases hu
  exact contextInv_of_notData ht (by simp [disarmRx, idleContext]) rfl rfl (by simp [disarmRx])

/-- Every event keeps the context in order. -/
theorem exec_contextInv {i : Instr} {s t : State} (hs : ContextInv s) (h : exec i s = .next t) : ContextInv t := by
  cases hm : s.mode with
  | config =>
    cases i with
    | addrW | addrR | rxc | listen | err =>
      cases (exec_busEvent_config rfl hm).symm.trans h
      exact (setRefusal_keepsContext s _ _).inv hs
    | setro r v =>
      cases (exec_setro_config hm r v).symm.trans h
      exact (setReadOnly_keepsContext s _ v).inv hs
    | setcb r v =>
      cases (exec_setcb_config hm r v).symm.trans h
      exact (setCallback_keepsContext s _ v).inv hs
    | enable =>
      cases (exec_enable_config hm).symm.trans h
      obtain ⟨hphase, -, hcount, hpending, harmed⟩ := hs.configIsQuiet hm
      exact contextInv_of_notData rfl (by simp [hphase]) hcount hpending (by simp [harmed])
    | aread => exact (exec_aread_keepsContext h).inv hs
  | run =>
    cases i with
    | addrW =>
      cases (exec_addrW_run hm).symm.trans h
      exact contextInv_of_notData hm (by simp) rfl rfl (by simp)
    | addrR =>
      cases (exec_addrR_run hm).symm.trans h
      exact contextInv_disarm hs rfl rfl rfl rfl hm
    | listen =>
      cases (exec_listen_run hm).symm.trans h
      exact contextInv_disarm hs rfl rfl rfl rfl hm
    | rxc b => exact exec_rxc_contextInv hm hs h
    | err k => exact exec_err_contextInv hm h
    | setro | setcb | enable =>
      cases (exec_setupEvent_run rfl hm).symm.trans h
      exact (setRefusal_keepsContext s _ _).inv hs
    | aread => exact (exec_aread_keepsContext h).inv hs

/-! ### The invariants through a step -/

theorem step_contextInv {s t : State} (hs : ContextInv s) (h : step s = .next t) : ContextInv t := by
  obtain ⟨-, -, rfl⟩ | ⟨d, rest, i, u, -, -, -, hu, rfl⟩ | ⟨d, rest, r, -, -, -, rfl⟩ := step_next h
  · exact hs
  · exact (finishStep_keepsContext _ u).inv (exec_contextInv ((takeDelivery_keepsContext s d rest).inv hs) hu)
  · refine (finishStep_keepsContext _ _).inv ((setRefusal_keepsContext _ _ _).inv ?_)
    exact (takeDelivery_keepsContext s d rest).inv hs

theorem step_params {s t : State} (h : step s = .next t) : t.params = s.params := by
  obtain ⟨-, -, rfl⟩ | ⟨d, rest, i, u, -, -, -, hu, rfl⟩ | ⟨d, rest, r, -, -, -, rfl⟩ := step_next h
  · rfl
  · exact (finishStep_params _ u).trans (exec_keepsConfiguration hu).params
  · exact finishStep_params _ _

/-- Settles O42: N legal, three tables of N entries, an idle context, blank marks. -/
theorem resetMeetsInvariants : Obligations.ResetMeetsInvariants := by
  intro p hp
  constructor
  case paramsLegal => exact hp
  case tableSized => exact resetWith_wf p
  all_goals simp

/-- Settles O43: parameters and table form by their own lemmas, the context event by event (`exec_contextInv`), the
marks from what a step does to them (`refusalMarksAreSticky`). -/
theorem everyStepKeepsInvariants : Obligations.EveryStepKeepsInvariants := by
  intro s t hs h
  have hcontext := step_contextInv hs.context h
  obtain ⟨hr, hmarked, hunmarked⟩ := refusalMarksAreSticky.1 s t h
  exact
    { paramsLegal := by rw [step_params h]; exact hs.paramsLegal
      tableSized := step_wf hs.tableSized h
      outsideData := hcontext.outsideData
      countInData := hcontext.countInData
      highLanesZero := hcontext.highLanesZero
      armedOnlyInWrite := hcontext.armedOnlyInWrite
      configIsQuiet := hcontext.configIsQuiet
      unrefusedIsBlank := fun ht => by
        obtain ⟨hcode, hword⟩ := hunmarked ht
        rw [hcode, hword]
        exact hs.unrefusedIsBlank hr
      refusedHasCode := fun ht => by
        obtain ⟨d, rest, c, -, -, hcode, -⟩ := hmarked ht
        exact ⟨c, hcode⟩ }

end Sys2Proof.Machine

/-! SUPPORT and PROOFS: runs (60_exceptions.md R217): what no deliveries change in RUN, the last store read back
(20_memory.md R70), good runs cut short. -/

namespace Sys2Proof.Machine

/-! ### Runs, one step at a time -/

/-- What every step of a delivery keeps, a run keeps. -/
theorem runFrom_invariant {P : State → Prop} (hstep : ∀ s d t, P s → step (s.deliver d) = .next t → P t) {s : State}
    (hs : P s) (ds : List Delivery) : P (runFrom s ds) := by
  induction ds generalizing s with
  | nil => exact hs
  | cons d ds ih =>
    rw [runFrom]
    split
    · next t ht => exact ih (hstep s d t hs ht)
    · exact hs
    · exact hs

theorem runFrom_cons {s t : State} {d : Delivery} (h : step (s.deliver d) = .next t) (ds : List Delivery) :
    runFrom s (d :: ds) = runFrom t ds := by
  simp only [runFrom, h]

/-- A step that does not answer a next state ends the run where it is. -/
theorem runFrom_stopped {s : State} {d : Delivery} (h : ∀ t, step (s.deliver d) ≠ .next t) (ds : List Delivery) :
    runFrom s (d :: ds) = s := by
  rw [runFrom]
  split
  · next t ht => exact absurd ht (h t)
  · rfl
  · rfl

/-! ### The configuration in RUN -/

/-- `u` is in RUN with the flags, the handlers and the parameters of `s`. -/
structure SameConfiguration (s u : State) : Prop where
  flags : u.ro = s.ro
  handlers : u.cb = s.cb
  mode : u.mode = .run
  params : u.params = s.params

theorem SameConfiguration.trans {s t u : State} (h : SameConfiguration s t) (h' : SameConfiguration t u) :
    SameConfiguration s u :=
  ⟨h'.flags.trans h.flags, h'.handlers.trans h.handlers, h'.mode, h'.params.trans h.params⟩

theorem exec_sameConfiguration {i : Instr} {s t : State} (hm : s.mode = .run) (h : exec i s = .next t) :
    SameConfiguration s t := by
  have keeps := exec_keepsConfiguration h
  have notConfig : s.mode ≠ .config := by simp [hm]
  refine ⟨keeps.flags.resolve_right ?_, keeps.handlers.resolve_right ?_, exec_mode_run hm h, keeps.params⟩
  · rintro ⟨r, v, -, hc, -⟩
    exact notConfig hc
  · rintro ⟨r, v, -, hc, -⟩
    exact notConfig hc

theorem finishStep_sameConfiguration {s u : State} (before : State) (h : SameConfiguration s u) :
    SameConfiguration s (finishStep before u) :=
  ⟨by simpa using h.flags, by simpa using h.handlers, by simpa using h.mode, by simpa using h.params⟩

theorem step_sameConfiguration {s t : State} (hm : s.mode = .run) (h : step s = .next t) : SameConfiguration s t := by
  obtain ⟨-, -, rfl⟩ | ⟨d, rest, i, u, -, -, -, hu, rfl⟩ | ⟨d, rest, r, -, -, -, rfl⟩ := step_next h
  · exact ⟨rfl, rfl, hm, rfl⟩
  · obtain ⟨hflags, hhandlers, hmode, hparams⟩ := exec_sameConfiguration (s := takeDelivery d rest s) hm hu
    exact finishStep_sameConfiguration _ ⟨hflags, hhandlers, hmode, hparams⟩
  · exact finishStep_sameConfiguration _ ⟨rfl, rfl, hm, rfl⟩

/-- The delivery itself is no part of the configuration. -/
theorem step_deliver_sameConfiguration {s u t : State} {d : Delivery} (hu : SameConfiguration s u)
    (h : step (u.deliver d) = .next t) : SameConfiguration s t := by
  obtain ⟨hflags, hhandlers, hmode, hparams⟩ := step_sameConfiguration (s := u.deliver d) hu.mode h
  exact hu.trans ⟨hflags, hhandlers, hmode, hparams⟩

theorem runFrom_sameConfiguration {s : State} (hm : s.mode = .run) (ds : List Delivery) :
    SameConfiguration s (runFrom s ds) :=
  runFrom_invariant (P := SameConfiguration s) (fun _ _ _ => step_deliver_sameConfiguration) ⟨rfl, rfl, hm, rfl⟩ ds

/-- Settles O45: every step in RUN keeps the configuration, so every run does. -/
theorem configurationIsFrozenInRun : Obligations.ConfigurationIsFrozenInRun := by
  intro s ds hm
  obtain ⟨hflags, hhandlers, hmode, hparams⟩ := runFrom_sameConfiguration hm ds
  exact ⟨hflags, hhandlers, hmode, hparams⟩

/-! ### Read-only registers in RUN -/

/-- In RUN a store passes the read-only gate: the one store that does not is that of SETRO, in CONFIG. -/
theorem storeOf_writable {i : Instr} {s : State} {a : Nat} {v : Word} (hm : s.mode = .run)
    (h : storeOf i s = some (a, v)) : isReadOnly s a = false := by
  unfold storeOf at h
  split at h
  · split at h
    · next hgate =>
      cases h
      exact hgate.2
    · cases h
  · have hsetro : setReadOnlyOf i s = none := by cases i <;> simp [setReadOnlyOf, hm]
    simp [hsetro] at h

theorem exec_memRead_readOnly {x : Instr} {s t : State} {i : Nat} (hm : s.mode = .run) (hi : isReadOnly s i = true)
    (h : exec x s = .next t) : memRead t i = memRead s i := by
  obtain ⟨hstored, hnone⟩ := eventsStoreOnlyWhereThePolicySays x s t h
  cases hs : storeOf x s with
  | none => exact hnone hs i
  | some store =>
    refine (hstored _ _ hs).2 i fun heq => ?_
    rw [heq, storeOf_writable hm hs] at hi
    cases hi

theorem memRead_finishStep (before after : State) (i : Nat) : memRead (finishStep before after) i = memRead after i :=
  memRead_congr (finishStep_params before after) (finishStep_reg before after) i

theorem step_memRead_readOnly {s t : State} {i : Nat} (hm : s.mode = .run) (hi : isReadOnly s i = true)
    (h : step s = .next t) : memRead t i = memRead s i := by
  obtain ⟨-, -, rfl⟩ | ⟨d, rest, x, u, -, -, -, hu, rfl⟩ | ⟨d, rest, r, -, -, -, rfl⟩ := step_next h
  · rfl
  · exact (memRead_finishStep _ u i).trans (exec_memRead_readOnly (s := takeDelivery d rest s) hm hi hu)
  · exact memRead_finishStep _ _ i

theorem SameConfiguration.isReadOnly_eq {s u : State} (h : SameConfiguration s u) (i : Nat) :
    isReadOnly u i = isReadOnly s i := by
  rw [isReadOnly, isReadOnly, h.flags]

/-- Settles O44: the flags stay those of `s`, so no step of the run stores to a register that was read-only in `s`. -/
theorem readOnlyRegistersNeverChangeInRun : Obligations.ReadOnlyRegistersNeverChangeInRun := by
  intro s ds i hm hi
  obtain ⟨hconfig, hread⟩ : SameConfiguration s (runFrom s ds) ∧ memRead (runFrom s ds) i = memRead s i := by
    refine runFrom_invariant (P := fun u => SameConfiguration s u ∧ memRead u i = memRead s i)
      (fun u d t hu h => ?_) ⟨⟨rfl, rfl, hm, rfl⟩, rfl⟩ ds
    obtain ⟨hconfig, hread⟩ := hu
    refine ⟨step_deliver_sameConfiguration hconfig h, ?_⟩
    exact (step_memRead_readOnly (s := u.deliver d) hconfig.mode ((hconfig.isReadOnly_eq i).trans hi) h).trans hread
  exact ⟨hread, (hconfig.isReadOnly_eq i).trans hi⟩

/-! ### The last store -/

/-- The store a delivered word makes, if it makes one; `runStores_cons` ties it to `runStores`. -/
def wordStores (w : EventWord) (s : State) : List (Nat × Word) :=
  match decode w with
  | .event i => (storeOf i s).toList
  | .reserved _ => []

theorem wordStores_event {w : EventWord} {i : Instr} (h : decode w = .event i) (s : State) :
    wordStores w s = (storeOf i s).toList := by
  simp only [wordStores, h]

theorem wordStores_reserved {w : EventWord} {r : Reserved} (h : decode w = .reserved r) (s : State) :
    wordStores w s = [] := by
  simp only [wordStores, h]

theorem runStores_cons {s t : State} {d : Delivery} (h : step (s.deliver d) = .next t) (ds : List Delivery) :
    runStores s (d :: ds) = wordStores d.word s ++ runStores t ds := by
  simp only [runStores, h]
  cases hd : decode d.word with
  | event i => rw [wordStores_event hd]
  | reserved r => rw [wordStores_reserved hd]

theorem runStores_stopped {s : State} {d : Delivery} (h : ∀ t, step (s.deliver d) ≠ .next t) (ds : List Delivery) :
    runStores s (d :: ds) = [] := by
  rw [runStores]
  split
  · next t ht => exact absurd ht (h t)
  · rfl
  · rfl

theorem lastStored_append (i : Nat) (earlier : Word) (stores later : List (Nat × Word)) :
    lastStored i earlier (stores ++ later) = lastStored i (lastStored i earlier stores) later :=
  List.foldl_append

/-- After an event a register reads as the event's store left it. -/
theorem exec_memRead_lastStored {x : Instr} {s t : State} (hw : Memory.wf s) (h : exec x s = .next t) (i : Nat) :
    memRead t i = lastStored i (memRead s i) (storeOf x s).toList := by
  obtain ⟨hstored, hnone⟩ := eventsStoreOnlyWhereThePolicySays x s t h
  cases hs : storeOf x s with
  | none => exact hnone hs i
  | some store =>
    obtain ⟨hsame, hother⟩ := hstored _ _ hs
    by_cases hi : store.1 = i
    · subst hi
      simpa [lastStored] using hsame hw
    · simpa [lastStored, hi] using hother i (Ne.symm hi)

/-- The step of one delivery where none is left: the register reads as its store left it, and no delivery is left. -/
theorem step_deliver_lastStored {s t : State} {d : Delivery} (hw : Memory.wf s) (hi : s.inbox = [])
    (h : step (s.deliver d) = .next t) (i : Nat) :
    t.inbox = [] ∧ memRead t i = lastStored i (memRead s i) (wordStores d.word s) := by
  obtain ⟨hr, -, -⟩ := refusalMarksAreSticky.1 _ _ h
  rw [step_deliver (s := s) hr hi, processEvent] at h
  cases hd : decode d.word with
  | event x =>
    simp only [hd, stepEvent] at h
    obtain ⟨u, hu, ht⟩ := andThen_eq_next.mp h
    cases ht
    refine ⟨(finishStep_inbox _ u).trans (exec_keepsData hu).inbox, ?_⟩
    rw [memRead_finishStep, exec_memRead_lastStored (s := takeDelivery d [] s) hw hu, wordStores_event hd,
      storeOf_takeDelivery, memRead_takeDelivery]
  | reserved r =>
    simp only [hd, stepEvent, refuseReserved, refuse_eq, andThen_next] at h
    cases h
    refine ⟨finishStep_inbox _ _, ?_⟩
    rw [memRead_finishStep, wordStores_reserved hd]
    rfl

/-- By induction on the deliveries: a register holds what the last store of the run left there (R70). -/
theorem runFrom_lastStored {s : State} (hw : Memory.wf s) (hi : s.inbox = []) (ds : List Delivery) (i : Nat) :
    memRead (runFrom s ds) i = lastStored i (memRead s i) (runStores s ds) := by
  induction ds generalizing s with
  | nil => rfl
  | cons d ds ih =>
    by_cases h : ∃ t, step (s.deliver d) = .next t
    · obtain ⟨t, ht⟩ := h
      obtain ⟨hinbox, hread⟩ := step_deliver_lastStored hw hi ht i
      have hwf : Memory.wf t := step_wf (s := s.deliver d) hw ht
      rw [runFrom_cons ht, runStores_cons ht, lastStored_append, ← hread, ih hwf hinbox]
    · have hstop := not_exists.mp h
      rw [runFrom_stopped hstop, runStores_stopped hstop]
      rfl

/-- Settles O46: the register holds the last store (`runFrom_lastStored`), and either read answers what it holds. -/
theorem readsAnswerTheLastStore : Obligations.ReadsAnswerTheLastStore := by
  intro s ds i hw hinbox hi
  have hread := runFrom_lastStored hw hinbox ds i
  refine ⟨hread, fun hm ht => ?_, fun j hj htorn => ?_, ?_⟩
  · rw [exec_addrR_run hm, ht, hread]
  · rw [exec_aread_atomic j htorn, hj, hread]
  · simp [memRead_inBounds (s := State.resetWith s.params) hi]

/-! ### Good runs -/

/-- A run that ends unrefused began so. -/
theorem good_of_runFrom_good {s : State} {ds : List Delivery} (h : (runFrom s ds).good = true) : s.good = true := by
  cases hr : s.refused with
  | false => simp [State.good, hr]
  | true => rwa [runFrom_refused hr] at h

/-- Settles O47: by induction on the deliveries kept; the state after them begins the run of the rest. -/
theorem prefixesOfGoodRunsAreGood : Obligations.PrefixesOfGoodRunsAreGood := by
  intro s ds es h
  induction ds generalizing s with
  | nil => exact good_of_runFrom_good h
  | cons d ds ih =>
    by_cases hstep : ∃ t, step (s.deliver d) = .next t
    · obtain ⟨t, ht⟩ := hstep
      rw [runFrom_cons ht]
      exact ih t ((congrArg State.good (runFrom_cons ht (ds ++ es))).symm.trans h)
    · have hstop := not_exists.mp hstep
      rw [runFrom_stopped hstop]
      exact good_of_runFrom_good h

end Sys2Proof.Machine

/-! SUPPORT and PROOFS: whole transactions from a ready state in RUN (41_transaction.md section 6, 30_encoding.md R82,
R92), each a write up to its third data byte (`partialWrite`) and the events after it. -/

namespace Sys2Proof.Machine

/-! ### The last event of a run -/

/-- The step of an event delivered to a ready state is `exec` of it, refused or not. -/
theorem step_deliver_ready {s : State} (hs : s.Ready) (i : Instr) :
    step (s.deliver { word := encode i }) = exec i s := by
  rw [undeclaredStepIsExec (s.deliver { word := encode i }) { word := encode i } [] i hs.unrefused
    (by simp [hs.noDelivery]) (decode_encode i) hs.noneWaiting rfl rfl]
  exact congrArg (exec i) (takeDelivery_deliver hs (encode i))

theorem runEvents_one {s t : State} {i : Instr} (hs : s.Ready) (h : exec i s = .next t) : runEvents s [i] = t :=
  runFrom_one ((step_deliver_ready hs i).trans h)

/-! ### Short values -/

theorem shortValue_one (d : Byte) : shortValue [d] = d.setWidth 32 := by
  simp [shortValue, fromLanes, placeLane]

/-- A value is made of its four lanes. -/
theorem fromLanes_lane (v : Word) : fromLanes (lane v 0) (lane v 1) (lane v 2) (lane v 3) = v := by
  refine eq_of_lanes fun k hk => ?_
  rw [lane_fromLanes _ _ _ _ hk]
  interval_cases k <;> rfl

/-! ### Full writes -/

/-- The state after a full write of four bytes (R151); `runEvents_fullWrite` says that the machine gets there. -/
def afterFullWrite (s : State) (i d0 d1 d2 d3 : Byte) : State :=
  { s with
    reg := tableAfterWrite s i.toNat (fromLanes d0 d1 d2 d3)
    phase := .idle, target := i, count := 0, pending := 0, rxArmed := false
    outputs := s.outputs ++
      [.reqRx .target .first, .reqRx .lane0 .next, .reqRx .lane1 .next, .reqRx .lane2 .next,
        .reqRx .lane3 .last] ++ memWriteRecords s i.toNat (fromLanes d0 d1 d2 d3) }

theorem afterFullWrite_ready {s : State} (hs : s.Ready) (i d0 d1 d2 d3 : Byte) :
    (afterFullWrite s i d0 d1 d2 d3).Ready :=
  ⟨hs.unrefused, hs.noDelivery, hs.noneWaiting, hs.undeclared, hs.noHandlerReads⟩

/-- The records of a write whose third data byte has arrived. -/
theorem partialWrite_outputs_three (s : State) (i d0 d1 d2 : Byte) :
    (partialWrite s i [d0, d1, d2]).outputs = s.outputs ++
      [.reqRx .target .first, .reqRx .lane0 .next, .reqRx .lane1 .next, .reqRx .lane2 .next, .reqRx .lane3 .last] := by
  simp [partialWrite, laneDest, laneFrame, List.range_succ]

section FullWrite

variable {s : State} (hs : s.Ready) (hm : s.mode = .run) (hang : s.params.callbackMayHang = false)
include hm hang

theorem exec_rxc_fourth_partialWrite (i d0 d1 d2 d3 : Byte) :
    exec (.rxc d3) (partialWrite s i [d0, d1, d2]) = .next (afterFullWrite s i d0 d1 d2 d3) := by
  have hvalue : fromLanes d0 d1 d2 d3 = shortValue [d0, d1, d2] ||| placeLane d3 3 :=
    shortValue_concat [d0, d1, d2] d3 le_rfl
  rw [exec_rxc_fourth (s := partialWrite s i [d0, d1, d2]) hm rfl hang d3 rfl le_rfl, afterFullWrite,
    ← partialWrite_outputs_three s i d0 d1 d2, hvalue]
  rfl

include hs

/-- A full write, whatever follows. -/
theorem runEvents_fullWrite (i d0 d1 d2 d3 : Byte) (is : List Instr) :
    runEvents s ([.addrW, .rxc i, .rxc d0, .rxc d1, .rxc d2, .rxc d3] ++ is) =
      runEvents (afterFullWrite s i d0 d1 d2 d3) is :=
  (runEvents_writePrefix hs hm i (bytes := [d0, d1, d2]) le_rfl (.rxc d3 :: is)).trans
    (runEvents_cons (partialWrite_ready hs i _) (exec_rxc_fourth_partialWrite hm hang i d0 d1 d2 d3) hs.unrefused is)

/-- A full write and one event after it, refused or not. -/
theorem runEvents_fullWrite_then {i d0 d1 d2 d3 : Byte} {e : Instr} {t : State}
    (h : exec e (afterFullWrite s i d0 d1 d2 d3) = .next t) :
    runEvents s [.addrW, .rxc i, .rxc d0, .rxc d1, .rxc d2, .rxc d3, e] = t :=
  (runEvents_fullWrite hs hm hang i d0 d1 d2 d3 [e]).trans (runEvents_one (afterFullWrite_ready hs i d0 d1 d2 d3) h)

end FullWrite

/-- Settles O49: a full write with nothing after it. -/
theorem fullWriteTransaction : Obligations.FullWriteTransaction :=
  fun _ i d0 d1 d2 d3 hs hm hang => runEvents_fullWrite hs hm hang i d0 d1 d2 d3 []

/-- Settles O55: the full write leaves Idle, where a received byte was not asked for (R144). -/
theorem fifthByteIsRefused : Obligations.FifthByteIsRefused := by
  intro s i d0 d1 d2 d3 b hs hm hang
  have hrefused := exec_receivesUnarmed (i := .rxc b) (s := afterFullWrite s i d0 d1 d2 d3) rfl hm
  rw [runEvents_fullWrite_then hs hm hang hrefused]
  exact ⟨rfl, rfl, rfl, rfl, rfl⟩

theorem toNat_ofNat_of_fitsByte {i : Nat} (h : fitsByte i = true) : (BitVec.ofNat 8 i).toNat = i :=
  Nat.mod_eq_of_lt (of_decide_eq_true h)

/-- Settles O57: WRITE32 is the full write of the lanes of `v`, and LISTEN. -/
theorem write32WritesItsValue : Obligations.Write32WritesItsValue := by
  intro s i v hs hm hang hwf
  obtain ⟨hfits, -⟩ := Bool.and_eq_true_iff.mp hwf
  refine (runEvents_fullWrite_then hs hm hang (exec_listen_run hm)).trans ?_
  simp only [afterFullWrite, fromLanes_lane, toNat_ofNat_of_fitsByte hfits]

/-! ### Writes that go on after a read or a LISTEN -/

/-- A partial write whose reception request was overtaken or ended, with the records `os` emitted since. -/
def disarmedWrite (s : State) (i : Byte) (bytes : List Byte) (os : List Output) : State :=
  { partialWrite s i bytes with rxArmed := false, outputs := (partialWrite s i bytes).outputs ++ os }

theorem disarmedWrite_ready {s : State} (hs : s.Ready) (i : Byte) (bytes : List Byte) (os : List Output) :
    (disarmedWrite s i bytes os).Ready :=
  ⟨hs.unrefused, hs.noDelivery, hs.noneWaiting, hs.undeclared, hs.noHandlerReads⟩

theorem exec_listen_partialWrite {s : State} (hm : s.mode = .run) (i : Byte) (bytes : List Byte) :
    exec .listen (partialWrite s i bytes) = .next (disarmedWrite s i bytes [.reqListen]) :=
  exec_listen_run (s := partialWrite s i bytes) hm

/-- The read transmits the register as it was before the write (R154). -/
theorem exec_addrR_partialWrite {s : State} (hm : s.mode = .run) (i : Byte) (bytes : List Byte) :
    exec .addrR (partialWrite s i bytes) = .next (disarmedWrite s i bytes
      [.reqTx (lane (memRead s i.toNat) 0) (lane (memRead s i.toNat) 1) (lane (memRead s i.toNat) 2)
        (lane (memRead s i.toNat) 3)]) :=
  exec_addrR_run (s := partialWrite s i bytes) hm

/-- The salvage does not ask for an outstanding request (R148). -/
theorem exec_nack_disarmedWrite {s : State} (hm : s.mode = .run) (hang : s.params.callbackMayHang = false) (i : Byte)
    {bytes : List Byte} (h1 : 1 ≤ bytes.length) (h3 : bytes.length ≤ 3) (os : List Output) :
    exec (.err 0x01) (disarmedWrite s i bytes os) = .next { s with
      reg := tableAfterWrite s i.toNat (shortValue bytes)
      phase := .idle, target := i, count := 0, pending := 0, rxArmed := false
      outputs := (partialWrite s i bytes).outputs ++ os ++ memWriteRecords s i.toNat (shortValue bytes) ++
        [.reqListen] } :=
  exec_nack_salvages (s := disarmedWrite s i bytes os) hm rfl hang (h1.trans_eq (partialWrite_count s i h3).symm)

/-- Settles O52: with no data byte sent, ADDR.R transmits the register just pointed at. -/
theorem pointerThenReadTransmits : Obligations.PointerThenReadTransmits := by
  intro s i hs hm
  rw [runEvents_addrW_index hs hm, runEvents_one (partialWrite_ready hs i []) (exec_addrR_partialWrite hm i [])]
  simp [disarmedWrite, partialWrite, shortValue, fromLanes, placeLane]

/-- Settles O53: the read disarms the write of one byte, and the error salvages it. -/
theorem readInsideWriteThenNackSalvages : Obligations.ReadInsideWriteThenNackSalvages := by
  intro s i d0 hs hm hang
  refine (runEvents_writePrefix hs hm i (bytes := [d0]) (by simp) [.addrR, .err 0x01]).trans ?_
  rw [runEvents_cons (partialWrite_ready hs i [d0]) (exec_addrR_partialWrite hm i [d0]) hs.unrefused,
    runEvents_one (disarmedWrite_ready hs i [d0] _) (exec_nack_disarmedWrite hm hang i le_rfl (by simp) _),
    shortValue_one]
  simp [partialWrite, laneDest, laneFrame]

/-- Settles O54: LISTEN disarms the write, and the error salvages it. -/
theorem listenKeepsPartialWriteForSalvage : Obligations.ListenKeepsPartialWriteForSalvage := by
  intro s i bytes hs hm hang h1 h3
  rw [runEvents_writePrefix hs hm i h3,
    runEvents_cons (partialWrite_ready hs i bytes) (exec_listen_partialWrite hm i bytes) hs.unrefused,
    runEvents_one (disarmedWrite_ready hs i bytes _) (exec_nack_disarmedWrite hm hang i h1 h3 _)]
  rfl

/-! ### Abandoned writes -/

/-- The events that abandon a partial write (R82). -/
def abandons (bytes : List Byte) (e : Instr) : Prop :=
  e = .addrW ∨ (∃ k, k ≠ 0x01 ∧ e = .err k) ∨ (bytes = [] ∧ ∃ k, e = .err k)

/-- The records of a write before its fourth data byte are requests. -/
theorem callback_notMem_writeRequests (n j : Nat) (h : Word) : Output.callback j h ∉
    [Output.reqRx .target .first, .reqRx .lane0 .next] ++
      (List.range n).map (fun k => Output.reqRx (laneDest (k + 1)) (laneFrame (k + 1))) := by
  simp

theorem salvage_abandoned {s : State} {i k : Byte} {bytes : List Byte} (h : abandons bytes (.err k)) :
    salvage k (partialWrite s i bytes) = .next (partialWrite s i bytes) := by
  refine salvage_none fun hsalvage => ?_
  obtain ⟨hk, -, hcount⟩ := hsalvage
  obtain he | ⟨k', hk', he⟩ | ⟨rfl, -⟩ := h
  · cases he
  · cases he
    exact hk' hk
  · simp [partialWrite] at hcount

/-- What abandoning a write leaves: one more record, and no trace of the data bytes. -/
theorem exec_abandons {s : State} (hm : s.mode = .run) (i : Byte) {bytes : List Byte} {e : Instr}
    (h : abandons bytes e) : ∃ t o, exec e (partialWrite s i bytes) = .next t ∧
      t.reg = s.reg ∧ t.target = i ∧ t.count = 0 ∧ t.pending = 0 ∧ t.refused = s.refused ∧
      t.outputs = (partialWrite s i bytes).outputs ++ [o] ∧ ∀ j handler, o ≠ Output.callback j handler := by
  cases e with
  | addrW => exact ⟨_, _, exec_addrW_run (s := partialWrite s i bytes) hm, rfl, rfl, rfl, rfl, rfl, rfl, by simp⟩
  | err k =>
    exact ⟨_, _, exec_err_of_salvage (s := partialWrite s i bytes) hm (salvage_abandoned h),
      rfl, rfl, rfl, rfl, rfl, rfl, by simp⟩
  | addrR | rxc | listen | setro | setcb | enable | aread => simp [abandons] at h

/-- Settles O51: the data bytes of a partial write store nothing, and neither does the event that abandons it. -/
theorem abandonedWriteStoresNothing : Obligations.AbandonedWriteStoresNothing := by
  intro s i bytes e hs hm h3 he
  obtain ⟨t, o, hexec, hreg, htarget, hcount, hpending, hrefused, hout, ho⟩ := exec_abandons hm i he
  rw [runEvents_writePrefix hs hm i h3, runEvents_one (partialWrite_ready hs i bytes) hexec]
  refine ⟨hreg, htarget, hcount, hpending, hrefused.trans hs.unrefused, _,
    hout.trans (by rw [partialWrite, List.append_assoc, List.append_assoc]), fun j handler hmem => ?_⟩
  rw [← List.append_assoc] at hmem
  obtain hrequest | hlast := List.mem_append.mp hmem
  · exact callback_notMem_writeRequests _ j handler hrequest
  · exact ho j handler (List.mem_singleton.mp hlast).symm

end Sys2Proof.Machine
